-- ==== Sys2Proof/Word.lean ====
section
/-! DEFINITION. The word and the byte of GLYPH-X (spec/00_scope.md R6, spec/20_memory.md R33). -/

namespace Sys2Proof

/-- A 64-bit value: a general register, `pc`, `ib` or an address; XLEN = ALEN = 64 (spec/00_scope.md R6). -/
abbrev Word := BitVec 64

/-- One byte of main memory, 8 bits (spec/10_state.md R33). -/
abbrev Byte := BitVec 8

/-- One 16-bit instruction packet (spec/30_encoding.md R80, R81). -/
abbrev Packet := BitVec 16

end Sys2Proof
end

