-- ==== Sys2Proof/Config.lean ====
section
/-! DEFINITION. What an implementation of GLYPH-X fixes and the spec leaves OPEN (spec/00_scope.md R6): constants
without a value, so that a claim about the model holds whatever they are, and the types of the parameters to which
the spec gives a default. The parameters with a default and MEMORY_MAP stand in `Machine.Params`. -/

namespace Sys2Proof

/-- The two rules spec/45_three_operand.md R211 allows for the distance of a register shift of 64 or more. -/
inductive ShiftAmountRule where
  /-- The low 6 bits of the distance register (the default). -/
  | mask6
  /-- The distance register, at most 64. -/
  | saturate
  deriving DecidableEq, Repr

/-- What `div.i64` does with -2^63 divided by -1: "either a 64-bit value written to `r[rc]` ... or a trap"
(spec/45_three_operand.md R213). -/
inductive DivOverflowResult where
  /-- `r[rc]` receives this value. -/
  | value (v : Word)
  /-- The instruction traps, with this number as its cause code. -/
  | trap (cause : Nat)
  deriving DecidableEq, Repr, Inhabited

/-- DIV_OVERFLOW_RESULT, OPEN (spec/00_scope.md R6). A free value: log 13. -/
opaque Config.divOverflowResult : DivOverflowResult

/-- TRAP_VECTOR without its lowest bit, OPEN (spec/00_scope.md R6). A free value: log 11. -/
opaque Config.trapVectorPacket : BitVec 63

/-- TRAP_VECTOR, the address `pc` is set to by a trap (spec/60_exceptions.md R244): any even address.
DEDUCED that it is even: "in every state the model reaches, `pc[0] = 0`" (spec/10_state.md R24), log 11. -/
def Config.trapVector : Word := Config.trapVectorPacket ++ 0#1

/-- An unknown one-to-one numbering: the three cause codes are its values at 0, 1 and 2, so they are three unknown
numbers "constrained only to be pairwise distinct" (spec/60_exceptions.md R241). A free value: log 12. -/
opaque Config.causeNumbering : Equiv.Perm Nat

/-- CAUSE_BREAK, OPEN (spec/60_exceptions.md R241). -/
def Config.causeBreak : Nat := Config.causeNumbering 0

/-- CAUSE_ILLEGAL, OPEN (spec/60_exceptions.md R241). -/
def Config.causeIllegal : Nat := Config.causeNumbering 1

/-- CAUSE_DIV0, OPEN (spec/60_exceptions.md R241). -/
def Config.causeDiv0 : Nat := Config.causeNumbering 2

end Sys2Proof
end

