-- ==== Sys2Proof/Machine/State.lean ====
section
/-! DEFINITION. The state of GLYPH-X (spec/10_state.md), the reasons a step can stop, and the state right after reset
(spec/10_state.md R37, spec/70_reset_and_hazards.md R270). Plain data throughout. -/

namespace Sys2Proof.Machine

/-! ### Registers -/

/-- The eight general registers, 64 bits each, none hard-wired (spec/10_state.md R21, R22). -/
structure RegFile where
  r0 : Word
  r1 : Word
  r2 : Word
  r3 : Word
  r4 : Word
  r5 : Word
  r6 : Word
  r7 : Word
  deriving DecidableEq, Repr

/-- Every general register holds the same value. -/
def RegFile.filled (v : Word) : RegFile := ⟨v, v, v, v, v, v, v, v⟩

/-! ### Memory -/

/-- Main memory (spec/10_state.md R33): the bytes that differ from `Memory.unlisted`, by strictly rising address. -/
abbrev Memory := List Host.Cell

/-- What an address that memory does not list reads as. DESIGN CHOICE, unsafe: the spec has "any value"
(spec/93_implementation_defined.md U14), log 5. -/
def Memory.unlisted : Byte := 0

/-- Strictly rising addresses below 2^64, no byte equal to `Memory.unlisted`. -/
def Memory.wf : Memory → Bool
  | [] => true
  | (a, b) :: m => decide (a < 2 ^ 64) && (b != Memory.unlisted) && m.all (fun c => decide (a < c.1)) && Memory.wf m

/-! ### The memory map -/

/-- What a region of the address space holds (spec/20_memory.md R60). -/
inductive RegionKind where
  | data | code | const | device
  deriving DecidableEq, Repr

/-- A region of MEMORY_MAP: `size` addresses from `base` (spec/20_memory.md R60). -/
structure Region where
  base : Nat
  size : Nat
  readable : Bool
  writable : Bool
  kind : RegionKind
  deriving DecidableEq, Repr

/-- MEMORY_MAP (spec/20_memory.md R60). The first region that covers an address speaks for it, and an address that
no region covers is not admitted. DESIGN CHOICE: this form of the parameter, log 7. -/
abbrev MemoryMap := List Region

/-- The whole address space as plain readable and writable memory. DESIGN CHOICE, unsafe: the map at
`State.reset`, log 6. -/
def MemoryMap.flat : MemoryMap := [⟨0, 2 ^ 64, true, true, .data⟩]

/-! ### Parameters -/

/-- The parameters of spec/00_scope.md R6 that a launch brings with it. The MODEL's own field of `State`: no
instruction reads them as data and none writes them (spec/10_state.md R20), log 17. -/
structure Params where
  /-- SHIFT_AMOUNT_RULE (spec/45_three_operand.md R211). -/
  shiftAmountRule : ShiftAmountRule
  /-- SEXT_SRC_BITS (spec/44_compare_logic.md R188). -/
  sextSrcBits : Nat
  /-- MEMORY_MAP (spec/20_memory.md R60). -/
  memoryMap : MemoryMap
  deriving DecidableEq, Repr

/-- A source width that a sign extension can have: 1 to 64 bits. DEDUCED from `r[rb][n-1:0]` of
spec/44_compare_logic.md R188, log 15. -/
def Params.wf (p : Params) : Bool := decide (1 ≤ p.sextSrcBits) && decide (p.sextSrcBits ≤ 64)

/-- The spec's defaults `mask6` and 32 (spec/00_scope.md R6), and the flat map of log 6. -/
def Params.default : Params := ⟨.mask6, 32, MemoryMap.flat⟩

/-! ### Traps -/

/-- A trap event: the cause and the information it carries (spec/60_exceptions.md R241, R252). -/
inductive Trap where
  /-- `break uimm9` (spec/46_system.md R230). -/
  | breakpoint (uimm9 : Nat)
  /-- `illegal uimm9` (spec/46_system.md R231). -/
  | illegalInstruction (uimm9 : Nat)
  /-- `div.i64` by zero (spec/60_exceptions.md R242). -/
  | divideByZero
  /-- `div.i64` of -2^63 by -1, where DIV_OVERFLOW_RESULT is a trap (spec/45_three_operand.md R213), with the cause
  code that the parameter gives it. -/
  | divOverflow (cause : Nat)
  deriving DecidableEq, Repr

/-! ### Faults and refusals -/

/-- Which access of an instruction (spec/20_memory.md R57). -/
inductive AccessKind where
  | fetch | const | load | store
  deriving DecidableEq, Repr

/-- Why the machine is stuck: spec/60_exceptions.md R248, R253 "(no step)". -/
inductive Fault where
  /-- Raised by the fetch when `pc` is odd (spec/60_exceptions.md R248). Safe: the spec has no step there. -/
  | oddPc
  /-- Raised by a fetch, a constant read, a load or a store of bytes from `addr` on that MEMORY_MAP does not admit
  (spec/20_memory.md R60). Safe: the spec has no step there. -/
  | notAdmitted (access : AccessKind) (addr : Word)
  deriving DecidableEq, Repr

/-- Why an instruction is refused: the spec gives it no meaning (spec/60_exceptions.md R253). -/
inductive Refusal where
  /-- Raised by an arm of `exec` whose instruction has no meaning yet. Safe: nothing is claimed of it. -/
  | notModelled (mnemonic : String)
  /-- Raised by the head packet of a 32-, 64- or 128-bit instruction (spec/30_encoding.md R104). Safe: the spec
  refuses it. -/
  | unmodelledLength
  /-- Raised by `compare.i64` with `fun3` = 7 (spec/30_encoding.md R103). Safe: the spec refuses it. -/
  | reservedEncoding
  /-- Raised by a 64-bit data access at an address that is not a multiple of 8, and by a constant read with an `ib`
  that is not a multiple of 64 (spec/20_memory.md R56). Safe: the spec refuses it. -/
  | misalignedAccess (addr : Word)
  /-- Raised by `jalib` and `jtlib` when the new `pc` is odd or the new `ib` is not a multiple of 64
  (spec/41_link_vector.md R136). Safe: the spec refuses it. -/
  | misalignedTarget (pc ib : Word)
  /-- Raised by a store to an address that MEMORY_MAP marks as code or constants (spec/20_memory.md R66). Safe: the
  spec refuses it. -/
  | storeToCodeOrConst (addr : Word)
  /-- Raised by an access that MEMORY_MAP admits to an address it marks as a device: "D0 ... defines no device"
  (spec/20_memory.md R59). Safe: what a device does is not claimed, log 9. -/
  | deviceAccess (access : AccessKind) (addr : Word)
  deriving DecidableEq, Repr

/-! ### The state -/

/-- The machine's state (spec/10_state.md R20), with the model's own fields `lastTrap` and `params`. -/
structure State where
  /-- `r0` to `r7` (R21). -/
  regs : RegFile
  /-- The program counter (R24). -/
  pc : Word
  /-- The immediate base register (R27). -/
  ib : Word
  /-- The predicate register (R30). -/
  flag : Bool
  /-- The saved program counter (R32). -/
  tpc : Word
  /-- The saved trap cause, of OPEN width (R20, R32), log 12. -/
  tcause : Nat
  /-- Main memory (R33). -/
  mem : Memory
  /-- The MODEL's own: the last trap event (spec/60_exceptions.md R252), log 16. -/
  lastTrap : Option Trap
  /-- The MODEL's own: the launch's parameters, log 17. -/
  params : Params
  deriving DecidableEq, Repr

/-- What starts a run (spec/10_state.md R37, spec/70_reset_and_hazards.md R271). -/
structure Launch where
  /-- ENTRY_PC; "must be even". -/
  entryPc : Word
  /-- ENTRY_IB; "must be a multiple of 64". -/
  entryIb : Word
  /-- What the registers hold: "unspecified". -/
  regs : RegFile
  /-- What `flag` holds: "unspecified". -/
  flag : Bool
  /-- What `tpc` and `tcause` hold: "unspecified". -/
  tpc : Word
  tcause : Nat
  /-- The launch image. -/
  image : Memory
  params : Params
  deriving DecidableEq, Repr

/-- The state at the start of execution (spec/10_state.md R37). -/
def State.launch (l : Launch) : State where
  regs := l.regs
  pc := l.entryPc
  ib := l.entryIb
  flag := l.flag
  tpc := l.tpc
  tcause := l.tcause
  mem := l.image
  lastTrap := none
  params := l.params

/-- The launch that `State.reset` is. DESIGN CHOICE, unsafe: the spec gives none of these values (logs 1 to 6); the
entry addresses are those of the common launch of spec/95_test_vectors.md section 3. -/
def Launch.default : Launch where
  entryPc := 0x1000
  entryIb := 0x8000
  regs := RegFile.filled 0
  flag := false
  tpc := 0
  tcause := 0
  image := []
  params := Params.default

/-- The machine right after reset: `State.launch` at `Launch.default`. -/
def State.reset : State := State.launch Launch.default

end Sys2Proof.Machine
end

