-- ==== Sys2Proof/Syntax.lean ====
section
/-! DEFINITION. The instructions of GLYPH-X as syntax: one constructor per row of spec/opcode_table.json
(spec/30_encoding.md R100 to R104). An immediate stands as the integer the spec reads its field as: `uimmN` as a
natural number, `simmN` as a signed integer (spec/00_scope.md R13); `WellFormed` says which values a field holds. -/

namespace Sys2Proof

/-- The eight general registers a 3-bit field names (spec/10_state.md R21). -/
inductive Reg where
  | r0 | r1 | r2 | r3 | r4 | r5 | r6 | r7
  deriving DecidableEq, Repr

/-- One instruction; the operand order is the assembler's, destination first (spec/30_encoding.md R108). -/
inductive Instr where
  /-- `break uimm9`; 46_system.md R230. -/
  | brk (uimm9 : Nat)
  /-- `j simm9`; 40_jumps_imm9.md R120. -/
  | j (simm9 : Int)
  /-- `b simm9`; 40_jumps_imm9.md R121. -/
  | b (simm9 : Int)
  /-- `ibj simm9`; 40_jumps_imm9.md R122. -/
  | ibj (simm9 : Int)
  /-- `jalib.i64 rc, ib64(uimm6*8)`; 41_link_vector.md R130. -/
  | jalib (rc : Reg) (uimm6 : Nat)
  /-- `jtlib.i64 rc, ib64(uimm6*8)`; 41_link_vector.md R131. -/
  | jtlib (rc : Reg) (uimm6 : Nat)
  /-- `movib.i64 rc, ib64(uimm6*8)`; 42_imm6_ops.md R140. -/
  | movib (rc : Reg) (uimm6 : Nat)
  /-- `movi.i64 rc, simm6`; 42_imm6_ops.md R141. -/
  | movi (rc : Reg) (simm6 : Int)
  /-- `addi.i64 rc, simm6`; 42_imm6_ops.md R142. -/
  | addi (rc : Reg) (simm6 : Int)
  /-- `srli.i64 rc, uimm6`; 42_imm6_ops.md R143. -/
  | srli (rc : Reg) (uimm6 : Nat)
  /-- `srai.i64 rc, uimm6`; 42_imm6_ops.md R144. -/
  | srai (rc : Reg) (uimm6 : Nat)
  /-- `slli.i64 rc, uimm6`; 42_imm6_ops.md R145. -/
  | slli (rc : Reg) (uimm6 : Nat)
  /-- `addib.i64 rc, ib32(uimm6*4)`; 42_imm6_ops.md R146. -/
  | addib (rc : Reg) (uimm6 : Nat)
  /-- `leapc.i64 rc, ib32(uimm6*4)(pc)`; 42_imm6_ops.md R147. -/
  | leapc (rc : Reg) (uimm6 : Nat)
  /-- `loadpc.i64 rc, ib32(uimm6*4)(pc)`; 43_loads_stores.md R160. -/
  | loadpc (rc : Reg) (uimm6 : Nat)
  /-- `storepc.i64 rc, ib32(uimm6*4)(pc)`; 43_loads_stores.md R161. -/
  | storepc (rc : Reg) (uimm6 : Nat)
  /-- `load.i64 rc, (uimm3*8)(rb)`; 43_loads_stores.md R162. -/
  | load (rc : Reg) (rb : Reg) (uimm3 : Nat)
  /-- `store.i64 rc, (uimm3*8)(rb)`; 43_loads_stores.md R163. -/
  | store (rc : Reg) (rb : Reg) (uimm3 : Nat)
  /-- `compare.i64 rc, rb, lt`; 44_compare_logic.md R171. -/
  | compareLt (rc : Reg) (rb : Reg)
  /-- `compare.i64 rc, rb, ge`; 44_compare_logic.md R172. -/
  | compareGe (rc : Reg) (rb : Reg)
  /-- `compare.i64 rc, rb, eq`; 44_compare_logic.md R173. -/
  | compareEq (rc : Reg) (rb : Reg)
  /-- `compare.i64 rc, rb, ne`; 44_compare_logic.md R174. -/
  | compareNe (rc : Reg) (rb : Reg)
  /-- `compare.i64 rc, rb, ltu`; 44_compare_logic.md R175. -/
  | compareLtu (rc : Reg) (rb : Reg)
  /-- `compare.i64 rc, rb, geu`; 44_compare_logic.md R176. -/
  | compareGeu (rc : Reg) (rb : Reg)
  /-- `compare.i64 rc, rb, mov`; 44_compare_logic.md R177. -/
  | compareMov (rc : Reg) (rb : Reg)
  /-- `compare.i64` with `fun3` = 7, reserved; 44_compare_logic.md R178. -/
  | compareReserved (rc : Reg) (rb : Reg)
  /-- `logic.i64 rc, rb, mov`; 44_compare_logic.md R181. -/
  | logicMov (rc : Reg) (rb : Reg)
  /-- `logic.i64 rc, rb, not`; 44_compare_logic.md R182. -/
  | logicNot (rc : Reg) (rb : Reg)
  /-- `logic.i64 rc, rb, neg`; 44_compare_logic.md R183. -/
  | logicNeg (rc : Reg) (rb : Reg)
  /-- `logic.i64 rc, rb, bswap`; 44_compare_logic.md R184. -/
  | logicBswap (rc : Reg) (rb : Reg)
  /-- `logic.i64 rc, rb, ctz`; 44_compare_logic.md R185. -/
  | logicCtz (rc : Reg) (rb : Reg)
  /-- `logic.i64 rc, rb, clz`; 44_compare_logic.md R186. -/
  | logicClz (rc : Reg) (rb : Reg)
  /-- `logic.i64 rc, rb, ctpop`; 44_compare_logic.md R187. -/
  | logicCtpop (rc : Reg) (rb : Reg)
  /-- `logic.i64 rc, rb, sext`; 44_compare_logic.md R188. -/
  | logicSext (rc : Reg) (rb : Reg)
  /-- `pin.i64 rc, rb, ra`; 45_three_operand.md R200. -/
  | pin (rc : Reg) (rb : Reg) (ra : Reg)
  /-- `and.i64 rc, rb, ra`; 45_three_operand.md R201. -/
  | and (rc : Reg) (rb : Reg) (ra : Reg)
  /-- `or.i64 rc, rb, ra`; 45_three_operand.md R202. -/
  | or (rc : Reg) (rb : Reg) (ra : Reg)
  /-- `xor.i64 rc, rb, ra`; 45_three_operand.md R203. -/
  | xor (rc : Reg) (rb : Reg) (ra : Reg)
  /-- `add.i64 rc, rb, ra`; 45_three_operand.md R204. -/
  | add (rc : Reg) (rb : Reg) (ra : Reg)
  /-- `srl.i64 rc, rb, ra`; 45_three_operand.md R205. -/
  | srl (rc : Reg) (rb : Reg) (ra : Reg)
  /-- `sra.i64 rc, rb, ra`; 45_three_operand.md R206. -/
  | sra (rc : Reg) (rb : Reg) (ra : Reg)
  /-- `sll.i64 rc, rb, ra`; 45_three_operand.md R207. -/
  | sll (rc : Reg) (rb : Reg) (ra : Reg)
  /-- `sub.i64 rc, rb, ra`; 45_three_operand.md R208. -/
  | sub (rc : Reg) (rb : Reg) (ra : Reg)
  /-- `mul.i64 rc, rb, ra`; 45_three_operand.md R209. -/
  | mul (rc : Reg) (rb : Reg) (ra : Reg)
  /-- `div.i64 rc, rb, ra`; 45_three_operand.md R210. -/
  | div (rc : Reg) (rb : Reg) (ra : Reg)
  /-- `illegal uimm9`; 46_system.md R231. -/
  | illegal (uimm9 : Nat)
  /-- head packet of a 32-bit instruction, `rest` its bits 15:2; 30_encoding.md R104. -/
  | reserved32 (rest : Nat)
  /-- head packet of a 64-bit instruction, `rest` its bits 15:2; 30_encoding.md R104. -/
  | reserved64 (rest : Nat)
  /-- head packet of a 128-bit instruction, `rest` its bits 15:2 (or a continuation packet); 30_encoding.md R104. -/
  | reserved128 (rest : Nat)
  deriving DecidableEq, Repr

end Sys2Proof
end

