-- ==== Sys2Proof/WellFormed.lean ====
section
/-! DEFINITION. When an instruction is well formed: every immediate is a value its field can hold
(spec/00_scope.md R13, spec/30_encoding.md R92). Every register number is valid (R103). -/

namespace Sys2Proof

/-- `v` is a value of an n-bit unsigned field, 0 to 2^n - 1 (spec/00_scope.md R13). -/
def fitsUnsigned (n v : Nat) : Bool := decide (v < 2 ^ n)

/-- `v` is a value of an n-bit two's-complement field, -2^(n-1) to 2^(n-1) - 1 (spec/00_scope.md R13). -/
def fitsSigned (n : Nat) (v : Int) : Bool := decide (-(2 ^ (n - 1)) ≤ v ∧ v < 2 ^ (n - 1))

/-- Every immediate operand fits its field (spec/30_encoding.md R92). -/
def Instr.wf : Instr → Bool
  | .brk uimm9 => fitsUnsigned 9 uimm9
  | .j simm9 => fitsSigned 9 simm9
  | .b simm9 => fitsSigned 9 simm9
  | .ibj simm9 => fitsSigned 9 simm9
  | .jalib _ uimm6 => fitsUnsigned 6 uimm6
  | .jtlib _ uimm6 => fitsUnsigned 6 uimm6
  | .movib _ uimm6 => fitsUnsigned 6 uimm6
  | .movi _ simm6 => fitsSigned 6 simm6
  | .addi _ simm6 => fitsSigned 6 simm6
  | .srli _ uimm6 => fitsUnsigned 6 uimm6
  | .srai _ uimm6 => fitsUnsigned 6 uimm6
  | .slli _ uimm6 => fitsUnsigned 6 uimm6
  | .addib _ uimm6 => fitsUnsigned 6 uimm6
  | .leapc _ uimm6 => fitsUnsigned 6 uimm6
  | .loadpc _ uimm6 => fitsUnsigned 6 uimm6
  | .storepc _ uimm6 => fitsUnsigned 6 uimm6
  | .load _ _ uimm3 => fitsUnsigned 3 uimm3
  | .store _ _ uimm3 => fitsUnsigned 3 uimm3
  | .compareLt _ _ => true
  | .compareGe _ _ => true
  | .compareEq _ _ => true
  | .compareNe _ _ => true
  | .compareLtu _ _ => true
  | .compareGeu _ _ => true
  | .compareMov _ _ => true
  | .compareReserved _ _ => true
  | .logicMov _ _ => true
  | .logicNot _ _ => true
  | .logicNeg _ _ => true
  | .logicBswap _ _ => true
  | .logicCtz _ _ => true
  | .logicClz _ _ => true
  | .logicCtpop _ _ => true
  | .logicSext _ _ => true
  | .pin _ _ _ => true
  | .and _ _ _ => true
  | .or _ _ _ => true
  | .xor _ _ _ => true
  | .add _ _ _ => true
  | .srl _ _ _ => true
  | .sra _ _ _ => true
  | .sll _ _ _ => true
  | .sub _ _ _ => true
  | .mul _ _ _ => true
  | .div _ _ _ => true
  | .illegal uimm9 => fitsUnsigned 9 uimm9
  | .reserved32 rest => fitsUnsigned 14 rest
  | .reserved64 rest => fitsUnsigned 14 rest
  | .reserved128 rest => fitsUnsigned 14 rest

/-- The proposition behind `Instr.wf`. -/
abbrev Instr.WellFormed (i : Instr) : Prop := i.wf = true

end Sys2Proof
end

