-- ==== Sys2Proof/Decode.lean ====
section
/-! DEFINITION. Encoding and decoding of the 16-bit packet, from spec/30_encoding.md: the packet template (R81), the
four forms (R88 to R91), the opcode map (R100 to R102), the reserved encodings (R103, R104), the decoding procedure
(R106), and the templates and the size code of the longer lengths (R82 to R86). Byte order: spec/20_memory.md R50. -/

namespace Sys2Proof

/-! ### Byte order -/

/-- The little-endian value of a list of bytes, lowest address first (spec/20_memory.md R51). -/
def joinLE : List Byte → Nat
  | [] => 0
  | b :: bs => b.toNat + 256 * joinLE bs

/-- The low `n` bytes of `v`, least significant first (spec/20_memory.md R52). -/
def splitLE : Nat → Nat → List Byte
  | 0, _ => []
  | n + 1, v => BitVec.ofNat 8 v :: splitLE n (v / 256)

/-! ### The fields of a packet -/

/-- The size field, bits 1:0 (spec/30_encoding.md R81). -/
def packetSize (w : Packet) : BitVec 2 := w.extractLsb' 0 2

/-- The opcode, bits 6:2 (spec/30_encoding.md R81). -/
def packetOpcode (w : Packet) : BitVec 5 := w.extractLsb' 2 5

/-- The operand bits, bits 15:7 (spec/30_encoding.md R81); the immediate of form I9 (R88). -/
def packetOperand (w : Packet) : BitVec 9 := w.extractLsb' 7 9

/-- `imm6`, bits 12:7 of form RI6 (spec/30_encoding.md R89). -/
def packetImm6 (w : Packet) : BitVec 6 := w.extractLsb' 7 6

/-- `imm3`, bits 9:7 of form RRI3, and the selector `fun3` (spec/30_encoding.md R90). -/
def packetImm3 (w : Packet) : BitVec 3 := w.extractLsb' 7 3

/-- Bits 15:2, all that a packet holds beside its size field. -/
def packetRest (w : Packet) : BitVec 14 := w.extractLsb' 2 14

/-- The register a 3-bit field names (spec/10_state.md R21). -/
def Reg.ofBits (b : BitVec 3) : Reg :=
  match b.toNat with
  | 0 => .r0
  | 1 => .r1
  | 2 => .r2
  | 3 => .r3
  | 4 => .r4
  | 5 => .r5
  | 6 => .r6
  | _ => .r7

/-- The 3-bit number of a register (spec/10_state.md R21). -/
def Reg.toBits : Reg → BitVec 3
  | .r0 => 0
  | .r1 => 1
  | .r2 => 2
  | .r3 => 3
  | .r4 => 4
  | .r5 => 5
  | .r6 => 6
  | .r7 => 7

/-- `rc`, bits 15:13 (spec/30_encoding.md R89 to R91). -/
def packetRc (w : Packet) : Reg := Reg.ofBits (w.extractLsb' 13 3)

/-- `rb`, bits 12:10 (spec/30_encoding.md R90, R91). -/
def packetRb (w : Packet) : Reg := Reg.ofBits (w.extractLsb' 10 3)

/-- `ra`, bits 9:7 (spec/30_encoding.md R91). -/
def packetRa (w : Packet) : Reg := Reg.ofBits (w.extractLsb' 7 3)

/-! ### Lengths -/

/-- The four instruction lengths (spec/30_encoding.md R80). -/
inductive InstrLength where
  | bits16 | bits32 | bits64 | bits128
  deriving DecidableEq, Repr

/-- "The `sz` field of packet 0 alone tells the length" (spec/30_encoding.md R85). -/
def lengthOfSize (sz : BitVec 2) : InstrLength :=
  match sz.toNat with
  | 0 => .bits16
  | 1 => .bits32
  | 2 => .bits64
  | _ => .bits128

/-- How many packets an instruction of a length has (spec/30_encoding.md R80). -/
def InstrLength.packets : InstrLength → Nat
  | .bits16 => 1
  | .bits32 => 2
  | .bits64 => 4
  | .bits128 => 8

/-- The size fields of an instruction's packets, packet 0 first (spec/30_encoding.md R85). -/
def InstrLength.sizeFields : InstrLength → List (BitVec 2)
  | .bits16 => [0b00]
  | .bits32 => [0b01, 0b11]
  | .bits64 => [0b10, 0b11, 0b11, 0b11]
  | .bits128 => [0b11, 0b11, 0b11, 0b11, 0b11, 0b11, 0b11, 0b11]

/-- The three fields of an instruction of any length, each as one number (spec/30_encoding.md R81 to R84). -/
structure Template where
  operand : Nat
  opcode : Nat
  size : Nat
  deriving DecidableEq, Repr

/-- The fields that packets, packet 0 first, make up: packet k carries `operand[9k+8 : 9k]`, `opcode[5k+4 : 5k]`
and `sz[2k+1 : 2k]` (spec/30_encoding.md R82 to R84). -/
def templateOf : List Packet → Template
  | [] => ⟨0, 0, 0⟩
  | w :: ws =>
    let t := templateOf ws
    ⟨(packetOperand w).toNat + 2 ^ 9 * t.operand, (packetOpcode w).toNat + 2 ^ 5 * t.opcode,
      (packetSize w).toNat + 2 ^ 2 * t.size⟩

/-- The fields of the instruction at the head of a stream of packets, where the stream holds as many packets as the
head's size field tells and their size fields are those of that length (spec/30_encoding.md R82 to R86). -/
def readTemplate (ws : List Packet) : Option (InstrLength × Template) :=
  match ws with
  | [] => none
  | w :: _ =>
    let l := lengthOfSize (packetSize w)
    let own := ws.take l.packets
    if own.map packetSize = l.sizeFields then some (l, templateOf own) else none

/-! ### Decoding -/

/-- `compare.i64` by its selector (spec/30_encoding.md R101); 7 is reserved (R103). -/
def decodeCompare (rc rb : Reg) (fun3 : BitVec 3) : Instr :=
  match fun3.toNat with
  | 0 => .compareLt rc rb
  | 1 => .compareGe rc rb
  | 2 => .compareEq rc rb
  | 3 => .compareNe rc rb
  | 4 => .compareLtu rc rb
  | 5 => .compareGeu rc rb
  | 6 => .compareMov rc rb
  | _ => .compareReserved rc rb

/-- `logic.i64` by its selector (spec/30_encoding.md R102). -/
def decodeLogic (rc rb : Reg) (fun3 : BitVec 3) : Instr :=
  match fun3.toNat with
  | 0 => .logicMov rc rb
  | 1 => .logicNot rc rb
  | 2 => .logicNeg rc rb
  | 3 => .logicBswap rc rb
  | 4 => .logicCtz rc rb
  | 5 => .logicClz rc rb
  | 6 => .logicCtpop rc rb
  | _ => .logicSext rc rb

/-- A packet whose size field is 00, by its opcode (spec/30_encoding.md R100, R106). -/
def decodeShort (w : Packet) : Instr :=
  match (packetOpcode w).toNat with
  | 0 => .brk (packetOperand w).toNat
  | 1 => .j (packetOperand w).toInt
  | 2 => .b (packetOperand w).toInt
  | 3 => .ibj (packetOperand w).toInt
  | 4 => .jalib (packetRc w) (packetImm6 w).toNat
  | 5 => .jtlib (packetRc w) (packetImm6 w).toNat
  | 6 => .movib (packetRc w) (packetImm6 w).toNat
  | 7 => .movi (packetRc w) (packetImm6 w).toInt
  | 8 => .addi (packetRc w) (packetImm6 w).toInt
  | 9 => .srli (packetRc w) (packetImm6 w).toNat
  | 10 => .srai (packetRc w) (packetImm6 w).toNat
  | 11 => .slli (packetRc w) (packetImm6 w).toNat
  | 12 => .addib (packetRc w) (packetImm6 w).toNat
  | 13 => .leapc (packetRc w) (packetImm6 w).toNat
  | 14 => .loadpc (packetRc w) (packetImm6 w).toNat
  | 15 => .storepc (packetRc w) (packetImm6 w).toNat
  | 16 => .load (packetRc w) (packetRb w) (packetImm3 w).toNat
  | 17 => .store (packetRc w) (packetRb w) (packetImm3 w).toNat
  | 18 => decodeCompare (packetRc w) (packetRb w) (packetImm3 w)
  | 19 => decodeLogic (packetRc w) (packetRb w) (packetImm3 w)
  | 20 => .pin (packetRc w) (packetRb w) (packetRa w)
  | 21 => .and (packetRc w) (packetRb w) (packetRa w)
  | 22 => .or (packetRc w) (packetRb w) (packetRa w)
  | 23 => .xor (packetRc w) (packetRb w) (packetRa w)
  | 24 => .add (packetRc w) (packetRb w) (packetRa w)
  | 25 => .srl (packetRc w) (packetRb w) (packetRa w)
  | 26 => .sra (packetRc w) (packetRb w) (packetRa w)
  | 27 => .sll (packetRc w) (packetRb w) (packetRa w)
  | 28 => .sub (packetRc w) (packetRb w) (packetRa w)
  | 29 => .mul (packetRc w) (packetRb w) (packetRa w)
  | 30 => .div (packetRc w) (packetRb w) (packetRa w)
  | _ => .illegal (packetOperand w).toNat

/-- The instruction of a packet, total on 16-bit values (spec/30_encoding.md R106). A size field other than 00 is
the head of a longer instruction, which has a constructor and no meaning (R104). -/
def decodePacket (w : Packet) : Instr :=
  match lengthOfSize (packetSize w) with
  | .bits16 => decodeShort w
  | .bits32 => .reserved32 (packetRest w).toNat
  | .bits64 => .reserved64 (packetRest w).toNat
  | .bits128 => .reserved128 (packetRest w).toNat

/-- Why bytes hold no instruction. -/
inductive DecodeError where
  /-- Fewer than the 2 bytes of a packet are there (spec/30_encoding.md R80). Safe: nothing is decoded. -/
  | truncated (bytes : Nat)
  deriving DecidableEq, Repr

/-- What decoding answers. -/
inductive DecodeResult where
  /-- The instruction, and the bytes after its first packet. -/
  | ok (i : Instr) (rest : List Byte)
  | rejected (e : DecodeError)
  deriving DecidableEq, Repr

/-- The packet of two bytes, the first at the lower address (spec/20_memory.md R53). -/
def packetOfBytes (lo hi : Byte) : Packet := hi ++ lo

/-- The two bytes of a packet as memory holds them (spec/20_memory.md R53). -/
def packetBytes (w : Packet) : List Byte := [w.extractLsb' 0 8, w.extractLsb' 8 8]

/-- The bytes of a longer instruction as memory holds them: packet 0 at the lowest address, each next packet two bytes
on (spec/30_encoding.md R86). -/
def packetsBytes (ws : List Packet) : List Byte := ws.flatMap packetBytes

/-- Decoding of a stream of bytes, lowest address first. -/
def decode : List Byte → DecodeResult
  | lo :: hi :: rest => .ok (decodePacket (packetOfBytes lo hi)) rest
  | short => .rejected (.truncated short.length)

/-- The bytes, as memory holds them, of an instruction whose low `nbits` bits are those of `w` and whose higher bits
are 0, at least one packet of them. -/
def instrBytes (nbits w : Nat) : List Byte := splitLE (max 2 ((nbits + 7) / 8)) (w % 2 ^ nbits)

/-- The instruction the decoder reads from an instruction whose bits are `w`. -/
def decodeTableWord (nbits w : Nat) : Option Instr :=
  match decode (instrBytes nbits w) with
  | .ok i _ => some i
  | .rejected _ => none

/-! ### Encoding -/

/-- Form I9 (spec/30_encoding.md R88). -/
def packI9 (imm9 : BitVec 9) (opcode : BitVec 5) : Packet := imm9 ++ opcode ++ 0b00#2

/-- Form RI6 (spec/30_encoding.md R89). -/
def packRI6 (rc : Reg) (imm6 : BitVec 6) (opcode : BitVec 5) : Packet := rc.toBits ++ imm6 ++ opcode ++ 0b00#2

/-- Form RRI3 (spec/30_encoding.md R90). -/
def packRRI3 (rc rb : Reg) (imm3 : BitVec 3) (opcode : BitVec 5) : Packet :=
  rc.toBits ++ rb.toBits ++ imm3 ++ opcode ++ 0b00#2

/-- Form RRR (spec/30_encoding.md R91). -/
def packRRR (rc rb ra : Reg) (opcode : BitVec 5) : Packet :=
  rc.toBits ++ rb.toBits ++ ra.toBits ++ opcode ++ 0b00#2

/-- The head packet of a longer instruction (spec/30_encoding.md R82 to R85). -/
def packHead (rest : BitVec 14) (sz : BitVec 2) : Packet := rest ++ sz

/-- The packet of an instruction (spec/30_encoding.md R92, R100 to R102). -/
def encodePacket : Instr → Packet
  | .brk uimm9 => packI9 (BitVec.ofNat 9 uimm9) 0b00000#5
  | .j simm9 => packI9 (BitVec.ofInt 9 simm9) 0b00001#5
  | .b simm9 => packI9 (BitVec.ofInt 9 simm9) 0b00010#5
  | .ibj simm9 => packI9 (BitVec.ofInt 9 simm9) 0b00011#5
  | .jalib rc uimm6 => packRI6 rc (BitVec.ofNat 6 uimm6) 0b00100#5
  | .jtlib rc uimm6 => packRI6 rc (BitVec.ofNat 6 uimm6) 0b00101#5
  | .movib rc uimm6 => packRI6 rc (BitVec.ofNat 6 uimm6) 0b00110#5
  | .movi rc simm6 => packRI6 rc (BitVec.ofInt 6 simm6) 0b00111#5
  | .addi rc simm6 => packRI6 rc (BitVec.ofInt 6 simm6) 0b01000#5
  | .srli rc uimm6 => packRI6 rc (BitVec.ofNat 6 uimm6) 0b01001#5
  | .srai rc uimm6 => packRI6 rc (BitVec.ofNat 6 uimm6) 0b01010#5
  | .slli rc uimm6 => packRI6 rc (BitVec.ofNat 6 uimm6) 0b01011#5
  | .addib rc uimm6 => packRI6 rc (BitVec.ofNat 6 uimm6) 0b01100#5
  | .leapc rc uimm6 => packRI6 rc (BitVec.ofNat 6 uimm6) 0b01101#5
  | .loadpc rc uimm6 => packRI6 rc (BitVec.ofNat 6 uimm6) 0b01110#5
  | .storepc rc uimm6 => packRI6 rc (BitVec.ofNat 6 uimm6) 0b01111#5
  | .load rc rb uimm3 => packRRI3 rc rb (BitVec.ofNat 3 uimm3) 0b10000#5
  | .store rc rb uimm3 => packRRI3 rc rb (BitVec.ofNat 3 uimm3) 0b10001#5
  | .compareLt rc rb => packRRI3 rc rb 0#3 0b10010#5
  | .compareGe rc rb => packRRI3 rc rb 1#3 0b10010#5
  | .compareEq rc rb => packRRI3 rc rb 2#3 0b10010#5
  | .compareNe rc rb => packRRI3 rc rb 3#3 0b10010#5
  | .compareLtu rc rb => packRRI3 rc rb 4#3 0b10010#5
  | .compareGeu rc rb => packRRI3 rc rb 5#3 0b10010#5
  | .compareMov rc rb => packRRI3 rc rb 6#3 0b10010#5
  | .compareReserved rc rb => packRRI3 rc rb 7#3 0b10010#5
  | .logicMov rc rb => packRRI3 rc rb 0#3 0b10011#5
  | .logicNot rc rb => packRRI3 rc rb 1#3 0b10011#5
  | .logicNeg rc rb => packRRI3 rc rb 2#3 0b10011#5
  | .logicBswap rc rb => packRRI3 rc rb 3#3 0b10011#5
  | .logicCtz rc rb => packRRI3 rc rb 4#3 0b10011#5
  | .logicClz rc rb => packRRI3 rc rb 5#3 0b10011#5
  | .logicCtpop rc rb => packRRI3 rc rb 6#3 0b10011#5
  | .logicSext rc rb => packRRI3 rc rb 7#3 0b10011#5
  | .pin rc rb ra => packRRR rc rb ra 0b10100#5
  | .and rc rb ra => packRRR rc rb ra 0b10101#5
  | .or rc rb ra => packRRR rc rb ra 0b10110#5
  | .xor rc rb ra => packRRR rc rb ra 0b10111#5
  | .add rc rb ra => packRRR rc rb ra 0b11000#5
  | .srl rc rb ra => packRRR rc rb ra 0b11001#5
  | .sra rc rb ra => packRRR rc rb ra 0b11010#5
  | .sll rc rb ra => packRRR rc rb ra 0b11011#5
  | .sub rc rb ra => packRRR rc rb ra 0b11100#5
  | .mul rc rb ra => packRRR rc rb ra 0b11101#5
  | .div rc rb ra => packRRR rc rb ra 0b11110#5
  | .illegal uimm9 => packI9 (BitVec.ofNat 9 uimm9) 0b11111#5
  | .reserved32 rest => packHead (BitVec.ofNat 14 rest) 0b01#2
  | .reserved64 rest => packHead (BitVec.ofNat 14 rest) 0b10#2
  | .reserved128 rest => packHead (BitVec.ofNat 14 rest) 0b11#2

/-- The packets of an instruction, one (spec/30_encoding.md R80). -/
def encode (i : Instr) : List Packet := [encodePacket i]

/-! ### The opcode map as a table -/

/-- One row of the opcode map: a packet belongs to the row when its bits under `mask` are `value`
(spec/30_encoding.md R100). -/
structure OpcodeRow where
  mnemonic : String
  mask : Packet
  value : Packet
  deriving DecidableEq, Repr

/-- The packet is one of the row's (spec/30_encoding.md R100). -/
def OpcodeRow.covers (r : OpcodeRow) (w : Packet) : Bool := w &&& r.mask == r.value

/-- The row of an instruction (spec/30_encoding.md R100 to R104). -/
def Instr.row : Instr → OpcodeRow
  | .brk _ => ⟨"break", 0x007F#16, 0x0000#16⟩
  | .j _ => ⟨"j", 0x007F#16, 0x0004#16⟩
  | .b _ => ⟨"b", 0x007F#16, 0x0008#16⟩
  | .ibj _ => ⟨"ibj", 0x007F#16, 0x000C#16⟩
  | .jalib _ _ => ⟨"jalib.i64", 0x007F#16, 0x0010#16⟩
  | .jtlib _ _ => ⟨"jtlib.i64", 0x007F#16, 0x0014#16⟩
  | .movib _ _ => ⟨"movib.i64", 0x007F#16, 0x0018#16⟩
  | .movi _ _ => ⟨"movi.i64", 0x007F#16, 0x001C#16⟩
  | .addi _ _ => ⟨"addi.i64", 0x007F#16, 0x0020#16⟩
  | .srli _ _ => ⟨"srli.i64", 0x007F#16, 0x0024#16⟩
  | .srai _ _ => ⟨"srai.i64", 0x007F#16, 0x0028#16⟩
  | .slli _ _ => ⟨"slli.i64", 0x007F#16, 0x002C#16⟩
  | .addib _ _ => ⟨"addib.i64", 0x007F#16, 0x0030#16⟩
  | .leapc _ _ => ⟨"leapc.i64", 0x007F#16, 0x0034#16⟩
  | .loadpc _ _ => ⟨"loadpc.i64", 0x007F#16, 0x0038#16⟩
  | .storepc _ _ => ⟨"storepc.i64", 0x007F#16, 0x003C#16⟩
  | .load _ _ _ => ⟨"load.i64", 0x007F#16, 0x0040#16⟩
  | .store _ _ _ => ⟨"store.i64", 0x007F#16, 0x0044#16⟩
  | .compareLt _ _ => ⟨"compare.i64_lt", 0x03FF#16, 0x0048#16⟩
  | .compareGe _ _ => ⟨"compare.i64_ge", 0x03FF#16, 0x00C8#16⟩
  | .compareEq _ _ => ⟨"compare.i64_eq", 0x03FF#16, 0x0148#16⟩
  | .compareNe _ _ => ⟨"compare.i64_ne", 0x03FF#16, 0x01C8#16⟩
  | .compareLtu _ _ => ⟨"compare.i64_ltu", 0x03FF#16, 0x0248#16⟩
  | .compareGeu _ _ => ⟨"compare.i64_geu", 0x03FF#16, 0x02C8#16⟩
  | .compareMov _ _ => ⟨"compare.i64_mov", 0x03FF#16, 0x0348#16⟩
  | .compareReserved _ _ => ⟨"compare.i64__fun3_7__reserved", 0x03FF#16, 0x03C8#16⟩
  | .logicMov _ _ => ⟨"logic.i64_mov", 0x03FF#16, 0x004C#16⟩
  | .logicNot _ _ => ⟨"logic.i64_not", 0x03FF#16, 0x00CC#16⟩
  | .logicNeg _ _ => ⟨"logic.i64_neg", 0x03FF#16, 0x014C#16⟩
  | .logicBswap _ _ => ⟨"logic.i64_bswap", 0x03FF#16, 0x01CC#16⟩
  | .logicCtz _ _ => ⟨"logic.i64_ctz", 0x03FF#16, 0x024C#16⟩
  | .logicClz _ _ => ⟨"logic.i64_clz", 0x03FF#16, 0x02CC#16⟩
  | .logicCtpop _ _ => ⟨"logic.i64_ctpop", 0x03FF#16, 0x034C#16⟩
  | .logicSext _ _ => ⟨"logic.i64_sext", 0x03FF#16, 0x03CC#16⟩
  | .pin _ _ _ => ⟨"pin.i64", 0x007F#16, 0x0050#16⟩
  | .and _ _ _ => ⟨"and.i64", 0x007F#16, 0x0054#16⟩
  | .or _ _ _ => ⟨"or.i64", 0x007F#16, 0x0058#16⟩
  | .xor _ _ _ => ⟨"xor.i64", 0x007F#16, 0x005C#16⟩
  | .add _ _ _ => ⟨"add.i64", 0x007F#16, 0x0060#16⟩
  | .srl _ _ _ => ⟨"srl.i64", 0x007F#16, 0x0064#16⟩
  | .sra _ _ _ => ⟨"sra.i64", 0x007F#16, 0x0068#16⟩
  | .sll _ _ _ => ⟨"sll.i64", 0x007F#16, 0x006C#16⟩
  | .sub _ _ _ => ⟨"sub.i64", 0x007F#16, 0x0070#16⟩
  | .mul _ _ _ => ⟨"mul.i64", 0x007F#16, 0x0074#16⟩
  | .div _ _ _ => ⟨"div.i64", 0x007F#16, 0x0078#16⟩
  | .illegal _ => ⟨"illegal", 0x007F#16, 0x007C#16⟩
  | .reserved32 _ => ⟨"reserved__32-bit_instruction_head", 0x0003#16, 0x0001#16⟩
  | .reserved64 _ => ⟨"reserved__64-bit_instruction_head", 0x0003#16, 0x0002#16⟩
  | .reserved128 _ => ⟨"reserved__128-bit_instruction_head__or_a_continuation_p", 0x0003#16, 0x0003#16⟩

/-- The opcode map, one row per constructor, in the order of spec/opcode_table.json. -/
def opcodeTable : List OpcodeRow :=
  [ Instr.row (.brk 0),
    Instr.row (.j 0),
    Instr.row (.b 0),
    Instr.row (.ibj 0),
    Instr.row (.jalib .r0 0),
    Instr.row (.jtlib .r0 0),
    Instr.row (.movib .r0 0),
    Instr.row (.movi .r0 0),
    Instr.row (.addi .r0 0),
    Instr.row (.srli .r0 0),
    Instr.row (.srai .r0 0),
    Instr.row (.slli .r0 0),
    Instr.row (.addib .r0 0),
    Instr.row (.leapc .r0 0),
    Instr.row (.loadpc .r0 0),
    Instr.row (.storepc .r0 0),
    Instr.row (.load .r0 .r0 0),
    Instr.row (.store .r0 .r0 0),
    Instr.row (.compareLt .r0 .r0),
    Instr.row (.compareGe .r0 .r0),
    Instr.row (.compareEq .r0 .r0),
    Instr.row (.compareNe .r0 .r0),
    Instr.row (.compareLtu .r0 .r0),
    Instr.row (.compareGeu .r0 .r0),
    Instr.row (.compareMov .r0 .r0),
    Instr.row (.compareReserved .r0 .r0),
    Instr.row (.logicMov .r0 .r0),
    Instr.row (.logicNot .r0 .r0),
    Instr.row (.logicNeg .r0 .r0),
    Instr.row (.logicBswap .r0 .r0),
    Instr.row (.logicCtz .r0 .r0),
    Instr.row (.logicClz .r0 .r0),
    Instr.row (.logicCtpop .r0 .r0),
    Instr.row (.logicSext .r0 .r0),
    Instr.row (.pin .r0 .r0 .r0),
    Instr.row (.and .r0 .r0 .r0),
    Instr.row (.or .r0 .r0 .r0),
    Instr.row (.xor .r0 .r0 .r0),
    Instr.row (.add .r0 .r0 .r0),
    Instr.row (.srl .r0 .r0 .r0),
    Instr.row (.sra .r0 .r0 .r0),
    Instr.row (.sll .r0 .r0 .r0),
    Instr.row (.sub .r0 .r0 .r0),
    Instr.row (.mul .r0 .r0 .r0),
    Instr.row (.div .r0 .r0 .r0),
    Instr.row (.illegal 0),
    Instr.row (.reserved32 0),
    Instr.row (.reserved64 0),
    Instr.row (.reserved128 0) ]

end Sys2Proof
end

