-- ==== Sys2Proof/Machine/Ops.lean ====
section
/-! DEFINITION. The named operations over registers and memory, the fetch, and taking a trap.
Rules: spec/10_state.md R22, spec/20_memory.md R50 to R66, spec/60_exceptions.md R244 to R248. -/

namespace Sys2Proof.Machine

/-- An answer of type `α`, or a fault or a refusal. -/
abbrev Result (α : Type) := Host.Outcome α Fault Refusal

/-- Go on with the answer; a fault or a refusal stays what it is, and nothing of the state has been written. -/
def andThen {α β : Type} (x : Result α) (f : α → Result β) : Result β :=
  match x with
  | .next a => f a
  | .fault r => .fault r
  | .refused r => .refused r

/-! ### Registers -/

/-- Read of a general register (spec/00_scope.md R9). -/
def RegFile.read (f : RegFile) : Reg → Word
  | .r0 => f.r0
  | .r1 => f.r1
  | .r2 => f.r2
  | .r3 => f.r3
  | .r4 => f.r4
  | .r5 => f.r5
  | .r6 => f.r6
  | .r7 => f.r7

/-- Write of a general register; none is hard-wired (spec/10_state.md R22). -/
def RegFile.write (f : RegFile) (r : Reg) (v : Word) : RegFile :=
  match r with
  | .r0 => { f with r0 := v }
  | .r1 => { f with r1 := v }
  | .r2 => { f with r2 := v }
  | .r3 => { f with r3 := v }
  | .r4 => { f with r4 := v }
  | .r5 => { f with r5 := v }
  | .r6 => { f with r6 := v }
  | .r7 => { f with r7 := v }

/-- `r[i]` (spec/00_scope.md R9). -/
def State.reg (s : State) (r : Reg) : Word := s.regs.read r

/-- `r[i] <- v` (spec/00_scope.md R9). -/
def State.setReg (s : State) (r : Reg) (v : Word) : State := { s with regs := s.regs.write r v }

/-- `pc <- target` (spec/00_scope.md R9). -/
def State.setPc (s : State) (target : Word) : State := { s with pc := target }

/-- `ib <- v`. -/
def State.setIb (s : State) (v : Word) : State := { s with ib := v }

/-- `flag <- v` (spec/10_state.md R30). -/
def State.setFlag (s : State) (v : Bool) : State := { s with flag := v }

/-- The memory after a write. -/
def State.setMem (s : State) (m : Memory) : State := { s with mem := m }

/-- `pc <- pc + 2`, the length of a packet (spec/10_state.md R25, spec/00_scope.md R12). -/
def State.advance (s : State) : State := s.setPc (s.pc + 2)

/-! ### Bytes of memory -/

/-- The byte at an address. -/
def Memory.read : Memory → Nat → Byte
  | [], _ => Memory.unlisted
  | (b, w) :: m, a => if b = a then w else Memory.read m a

/-- The memory with one byte changed, in canonical form again. -/
def Memory.write : Memory → Nat → Byte → Memory
  | [], a, v => if v = Memory.unlisted then [] else [(a, v)]
  | (b, w) :: m, a, v =>
    if a < b then (if v = Memory.unlisted then (b, w) :: m else (a, v) :: (b, w) :: m)
    else if a = b then (if v = Memory.unlisted then m else (a, v) :: m)
    else (b, w) :: Memory.write m a v

/-- `n` bytes from `a` on, addresses modulo 2^64 (spec/20_memory.md R51). -/
def Memory.readBytes (m : Memory) (a : Word) : Nat → List Byte
  | 0 => []
  | n + 1 => m.read a.toNat :: Memory.readBytes m (a + 1) n

/-- Bytes stored from `a` on, addresses modulo 2^64 (spec/20_memory.md R52). -/
def Memory.writeBytes (m : Memory) (a : Word) : List Byte → Memory
  | [] => m
  | b :: bs => Memory.writeBytes (m.write a.toNat b) (a + 1) bs

/-- `MemRead(a, 2)` (spec/20_memory.md R51). -/
def Memory.read16 (m : Memory) (a : Word) : BitVec 16 := BitVec.ofNat 16 (joinLE (m.readBytes a 2))

/-- `MemRead(a, 4)` (spec/20_memory.md R51). -/
def Memory.read32 (m : Memory) (a : Word) : BitVec 32 := BitVec.ofNat 32 (joinLE (m.readBytes a 4))

/-- `MemRead(a, 8)` (spec/20_memory.md R51). -/
def Memory.read64 (m : Memory) (a : Word) : Word := BitVec.ofNat 64 (joinLE (m.readBytes a 8))

/-- `MemWrite(a, 8, v)` (spec/20_memory.md R52). -/
def Memory.write64 (m : Memory) (a : Word) (v : Word) : Memory := m.writeBytes a (splitLE 8 v.toNat)

/-! ### The packets of an instruction in memory -/

/-- The address of packet k of the instruction at `a`: `a + 2k` modulo 2^64 (spec/30_encoding.md R86,
spec/10_state.md R26). -/
def packetAddr (a : Word) (k : Nat) : Word := a + BitVec.ofNat 64 (2 * k)

/-- Packet k of the instruction at `a` (spec/30_encoding.md R86); packet 0 is the one that `fetch` reads at `pc`. -/
def Memory.packetAt (m : Memory) (a : Word) (k : Nat) : Packet := m.read16 (packetAddr a k)

/-- Packets 0 to n - 1 of the instruction at `a` (spec/30_encoding.md R86). -/
def Memory.packetsAt (m : Memory) (a : Word) (n : Nat) : List Packet := (List.range n).map (m.packetAt a)

/-- How long the instruction at `a` is: the size field of its packet 0 tells (spec/30_encoding.md R85, R86). -/
def Memory.lengthAt (m : Memory) (a : Word) : InstrLength := lengthOfSize (packetSize (m.packetAt a 0))

/-- The fields of the instruction at `a`, from all its packets, where their size fields are those of its length
(spec/30_encoding.md R82 to R86). -/
def Memory.templateAt (m : Memory) (a : Word) : Option (InstrLength × Template) :=
  readTemplate (m.packetsAt a (m.lengthAt a).packets)

/-- The memory with an instruction's packets placed from `a` on, packet 0 first (spec/30_encoding.md R86). -/
def Memory.writePackets (m : Memory) (a : Word) (ws : List Packet) : Memory := m.writeBytes a (packetsBytes ws)

/-! ### What MEMORY_MAP admits -/

/-- The region covers the address. -/
def Region.covers (r : Region) (a : Nat) : Bool := decide (r.base ≤ a) && decide (a < r.base + r.size)

/-- The region that speaks for an address, log 7. -/
def MemoryMap.regionAt (m : MemoryMap) (a : Nat) : Option Region := m.find? (fun r => r.covers a)

/-- The address is readable memory (spec/20_memory.md R51, R60). -/
def MemoryMap.readable (m : MemoryMap) (a : Nat) : Bool :=
  match m.regionAt a with
  | some r => r.readable
  | none => false

/-- The address is writable memory (spec/20_memory.md R52, R60). -/
def MemoryMap.writable (m : MemoryMap) (a : Nat) : Bool :=
  match m.regionAt a with
  | some r => r.writable
  | none => false

/-- The address holds code or constants (spec/20_memory.md R66). -/
def MemoryMap.codeOrConst (m : MemoryMap) (a : Nat) : Bool :=
  match m.regionAt a with
  | some r => r.kind == .code || r.kind == .const
  | none => false

/-- The address is a device's (spec/20_memory.md R60). -/
def MemoryMap.device (m : MemoryMap) (a : Nat) : Bool :=
  match m.regionAt a with
  | some r => r.kind == .device
  | none => false

/-- The addresses of `n` bytes from `a` on, modulo 2^64 (spec/20_memory.md R51). -/
def byteAddrs (a : Word) (n : Nat) : List Nat := (List.range n).map (fun k => (a + BitVec.ofNat 64 k).toNat)

/-- Every one of the `n` bytes from `a` on is readable (spec/20_memory.md R51). -/
def MemoryMap.allReadable (m : MemoryMap) (a : Word) (n : Nat) : Bool := (byteAddrs a n).all m.readable

/-- Every one of the `n` bytes from `a` on is writable (spec/20_memory.md R52). -/
def MemoryMap.allWritable (m : MemoryMap) (a : Word) (n : Nat) : Bool := (byteAddrs a n).all m.writable

/-- One of the `n` bytes from `a` on is code or constants (spec/20_memory.md R66). -/
def MemoryMap.anyCodeOrConst (m : MemoryMap) (a : Word) (n : Nat) : Bool := (byteAddrs a n).any m.codeOrConst

/-- One of the `n` bytes from `a` on is a device's (spec/20_memory.md R59). -/
def MemoryMap.anyDevice (m : MemoryMap) (a : Word) (n : Nat) : Bool := (byteAddrs a n).any m.device

/-- A read of `n` bytes from `a` on that MEMORY_MAP admits, of memory that is no device. -/
def MemoryMap.admitsRead (m : MemoryMap) (a : Word) (n : Nat) : Bool := m.allReadable a n && !m.anyDevice a n

/-- A write of `n` bytes from `a` on that MEMORY_MAP admits, to memory that is no device, no code and no
constants. -/
def MemoryMap.admitsWrite (m : MemoryMap) (a : Word) (n : Nat) : Bool :=
  !m.anyCodeOrConst a n && m.allWritable a n && !m.anyDevice a n

/-- The address is a multiple of `n` (spec/20_memory.md R56). -/
def isAligned (a : Word) (n : Nat) : Bool := a.toNat % n == 0

/-- The checks of a read (spec/20_memory.md R51, R59, R60), in the order of log 8. -/
def checkRead (kind : AccessKind) (s : State) (a : Word) (n : Nat) : Result Unit :=
  if s.params.memoryMap.allReadable a n then
    if s.params.memoryMap.anyDevice a n then .refused (.deviceAccess kind a) else .next ()
  else .fault (.notAdmitted kind a)

/-- The checks of a write (spec/20_memory.md R52, R59, R60, R66), in the order of log 8. -/
def checkWrite (s : State) (a : Word) (n : Nat) : Result Unit :=
  if s.params.memoryMap.anyCodeOrConst a n then .refused (.storeToCodeOrConst a)
  else if s.params.memoryMap.allWritable a n then
    if s.params.memoryMap.anyDevice a n then .refused (.deviceAccess .store a) else .next ()
  else .fault (.notAdmitted .store a)

/-! ### The accesses of an instruction -/

/-- The fetch: `pc` must be even and the 2-byte read admitted, else no step (spec/60_exceptions.md R248, R53 of
spec/20_memory.md). That an odd `pc` is a fault and no refusal: log 18. -/
def fetch (s : State) : Result Packet :=
  if isAligned s.pc 2 then andThen (checkRead .fetch s s.pc 2) fun _ => .next (s.mem.read16 s.pc)
  else .fault .oddPc

/-- A constant may be read: `ib` is a multiple of 64 (spec/20_memory.md R56, log 19) and the read is admitted. -/
def checkConst (s : State) (a : Word) (n : Nat) : Result Unit :=
  if isAligned s.ib 64 then checkRead .const s a n else .refused (.misalignedAccess a)

/-- A 64-bit constant at `a` (spec/20_memory.md R57). -/
def readConst64 (s : State) (a : Word) : Result Word :=
  andThen (checkConst s a 8) fun _ => .next (s.mem.read64 a)

/-- A 32-bit constant at `a` (spec/20_memory.md R57). -/
def readConst32 (s : State) (a : Word) : Result (BitVec 32) :=
  andThen (checkConst s a 4) fun _ => .next (s.mem.read32 a)

/-- A 64-bit data read at `a`: aligned, else refused (spec/20_memory.md R56), then admitted (R60). -/
def loadData (s : State) (a : Word) : Result Word :=
  if isAligned a 8 then andThen (checkRead .load s a 8) fun _ => .next (s.mem.read64 a)
  else .refused (.misalignedAccess a)

/-- A 64-bit data write at `a`: aligned, else refused (spec/20_memory.md R56), then admitted (R60, R66). -/
def storeData (s : State) (a v : Word) : Result State :=
  if isAligned a 8 then andThen (checkWrite s a 8) fun _ => .next (s.setMem (s.mem.write64 a v))
  else .refused (.misalignedAccess a)

/-! ### How an instruction ends -/

/-- `r[rc] <- v` and `pc <- pc + 2`. -/
def writeBack (rc : Reg) (v : Word) (s : State) : Result State := .next (s.setReg rc v).advance

/-- `(pc, ib)` set together; an odd `pc` or an `ib` that is not a multiple of 64 is refused
(spec/41_link_vector.md R136). -/
def jumpPair (newPc newIb : Word) (s : State) : Result State :=
  if isAligned newPc 2 && isAligned newIb 64 then .next ((s.setPc newPc).setIb newIb)
  else .refused (.misalignedTarget newPc newIb)

/-! ### Traps -/

/-- The `tcause` value of a trap (spec/60_exceptions.md R241). -/
def Trap.cause : Trap → Nat
  | .breakpoint _ => Config.causeBreak
  | .illegalInstruction _ => Config.causeIllegal
  | .divideByZero => Config.causeDiv0
  | .divOverflow cause => cause

/-- Trap entry: `tpc <- pc`, `tcause <- ` the cause, `pc <- TRAP_VECTOR`, and nothing else
(spec/60_exceptions.md R244 to R247); `tpc` is the address of the trapping instruction (R246). The trap event stays in
`lastTrap` (R252), log 16. There is no return from a trap (R249). DESIGN CHOICE: the trap is a next state, from which
the machine would go on at TRAP_VECTOR, log 10. -/
def takeTrap (t : Trap) (s : State) : State :=
  { s with tpc := s.pc, tcause := t.cause, pc := Config.trapVector, lastTrap := some t }

end Sys2Proof.Machine
end

