-- ==== Sys2Proof/Machine/Flags.lean ====
section
/-! DEFINITION. The computations of `flag`, the only flag of the ISA (spec/10_state.md R30): the six relations of
`compare.i64` (spec/44_compare_logic.md R170 to R176). The left operand is `r[rc]` (spec/90_conflicts.md C5). -/

namespace Sys2Proof.Machine

/-- `signed(x) < signed(y)` (spec/44_compare_logic.md R171). -/
def relLt (x y : Word) : Bool := decide (x.toInt < y.toInt)

/-- `signed(x) >= signed(y)` (spec/44_compare_logic.md R172). -/
def relGe (x y : Word) : Bool := decide (x.toInt ≥ y.toInt)

/-- `x = y` (spec/44_compare_logic.md R173). -/
def relEq (x y : Word) : Bool := x == y

/-- `x != y` (spec/44_compare_logic.md R174). -/
def relNe (x y : Word) : Bool := x != y

/-- `unsigned(x) < unsigned(y)` (spec/44_compare_logic.md R175). -/
def relLtu (x y : Word) : Bool := decide (x.toNat < y.toNat)

/-- `unsigned(x) >= unsigned(y)` (spec/44_compare_logic.md R176). -/
def relGeu (x y : Word) : Bool := decide (x.toNat ≥ y.toNat)

/-- A comparison: `flag` receives the relation of `r[rc]` to `r[rb]`, and `pc` advances
(spec/44_compare_logic.md R170). -/
def compareWith (rel : Word → Word → Bool) (rc rb : Reg) (s : State) : Result State :=
  .next (s.setFlag (rel (s.reg rc) (s.reg rb))).advance

end Sys2Proof.Machine
end

