-- ==== Sys2Proof/Machine/Compare.lean ====
section
/-! DEFINITION. `compare.i64` by its function selector (spec/44_compare_logic.md R170 to R178). -/

namespace Sys2Proof.Machine

/-- `compare.i64 rc, rb, lt` (spec/44_compare_logic.md R171). -/
def execCompareLt (rc rb : Reg) (s : State) : Result State := compareWith relLt rc rb s

/-- `compare.i64 rc, rb, ge` (spec/44_compare_logic.md R172). -/
def execCompareGe (rc rb : Reg) (s : State) : Result State := compareWith relGe rc rb s

/-- `compare.i64 rc, rb, eq` (spec/44_compare_logic.md R173). -/
def execCompareEq (rc rb : Reg) (s : State) : Result State := compareWith relEq rc rb s

/-- `compare.i64 rc, rb, ne` (spec/44_compare_logic.md R174). -/
def execCompareNe (rc rb : Reg) (s : State) : Result State := compareWith relNe rc rb s

/-- `compare.i64 rc, rb, ltu` (spec/44_compare_logic.md R175). -/
def execCompareLtu (rc rb : Reg) (s : State) : Result State := compareWith relLtu rc rb s

/-- `compare.i64 rc, rb, geu` (spec/44_compare_logic.md R176). -/
def execCompareGeu (rc rb : Reg) (s : State) : Result State := compareWith relGeu rc rb s

/-- `compare.i64 rc, rb, mov`: the conditional move (spec/44_compare_logic.md R177). -/
def execCompareMov (rc rb : Reg) (s : State) : Result State :=
  .next (if s.flag then s.setReg rc (s.reg rb) else s).advance

/-- `compare.i64` with `fun3` = 7: reserved, refused, no state changed (spec/44_compare_logic.md R178,
spec/30_encoding.md R103). -/
def execCompareReserved (_rc _rb : Reg) (_s : State) : Result State := .refused .reservedEncoding

end Sys2Proof.Machine
end

