-- ==== Sys2Proof/Machine/Arith.lean ====
section
/-! DEFINITION. The value computations of the arithmetic and logic instructions
(spec/44_compare_logic.md R182 to R188, spec/45_three_operand.md R201 to R213). -/

namespace Sys2Proof.Machine

/-- `unsigned(x) div 2^d` (spec/42_imm6_ops.md R143, spec/45_three_operand.md R205). -/
def shiftRightLogical (x : Word) (d : Nat) : Word := x >>> d

/-- `floor(signed(x) / 2^d)` (spec/42_imm6_ops.md R144, spec/45_three_operand.md R206). -/
def shiftRightArith (x : Word) (d : Nat) : Word := x.sshiftRight d

/-- `(x * 2^d) mod 2^64` (spec/42_imm6_ops.md R145, spec/45_three_operand.md R207). -/
def shiftLeft (x : Word) (d : Nat) : Word := x <<< d

/-- The eight bytes in the opposite order (spec/44_compare_logic.md R184). -/
def byteSwap (x : Word) : Word :=
  x.extractLsb' 0 8 ++ x.extractLsb' 8 8 ++ x.extractLsb' 16 8 ++ x.extractLsb' 24 8 ++
    x.extractLsb' 32 8 ++ x.extractLsb' 40 8 ++ x.extractLsb' 48 8 ++ x.extractLsb' 56 8

/-- "the least k in 0..63 with" bit k set, or 64 (spec/44_compare_logic.md R185). -/
def countTrailingZeros (x : Word) : Nat := ((List.range 64).find? (fun k => x.getLsbD k)).getD 64

/-- 63 less the greatest k with bit k set, or 64 (spec/44_compare_logic.md R186). -/
def countLeadingZeros (x : Word) : Nat := ((List.range 64).find? (fun k => x.getLsbD (63 - k))).getD 64

/-- "the number of 1 bits among the 64 bits" (spec/44_compare_logic.md R187). -/
def countPopulation (x : Word) : Nat := (List.range 64).countP (fun k => x.getLsbD k)

/-- `sext_n(x[n-1:0])` (spec/44_compare_logic.md R188). -/
def signExtendFrom (n : Nat) (x : Word) : Word := (x.setWidth n).signExtend 64

/-- The low 64 bits of the product (spec/45_three_operand.md R209). -/
def multiply (x y : Word) : Word := x * y

/-- `trunc_toward_zero(signed(x) / signed(y))` (spec/45_three_operand.md R210). -/
def divideSigned (x y : Word) : Word := BitVec.ofInt 64 (Int.tdiv x.toInt y.toInt)

/-- The one division whose quotient 64 bits cannot hold: -2^63 by -1 (spec/45_three_operand.md R213). -/
def divOverflows (x y : Word) : Bool := x == 0x8000000000000000 && y == 0xFFFFFFFFFFFFFFFF

end Sys2Proof.Machine
end

