-- ==== Sys2Proof/Machine/Operands.lean ====
section
/-! DEFINITION. The operand forms: immediates, effective addresses, link vectors and shift distances.
Rules: spec/00_scope.md R13, R14; spec/10_state.md R31; spec/20_memory.md R61; spec/45_three_operand.md R211. -/

namespace Sys2Proof.Machine

/-! ### Immediates -/

/-- A signed immediate widened to 64 bits, `sext_N(simmN)` (spec/00_scope.md R9, R13). -/
def signedImm (simm : Int) : Word := BitVec.ofInt 64 simm

/-- An unsigned immediate widened to 64 bits (spec/00_scope.md R9, R13). -/
def unsignedImm (uimm : Nat) : Word := BitVec.ofNat 64 uimm

/-! ### Effective addresses, all modulo 2^64 (spec/20_memory.md R61) -/

/-- `ib + uimm6 * 8`, the address of `ib64(uimm6*8)` (spec/00_scope.md R14). -/
def const64Addr (s : State) (uimm6 : Nat) : Word := s.ib + unsignedImm uimm6 * 8

/-- `ib + uimm6 * 4`, the address of `ib32(uimm6*4)` (spec/00_scope.md R14). -/
def const32Addr (s : State) (uimm6 : Nat) : Word := s.ib + unsignedImm uimm6 * 4

/-- `pc + sext_32(c)`, `pc` the address of the instruction itself (spec/00_scope.md R12, R14). -/
def pcRelAddr (s : State) (c : BitVec 32) : Word := s.pc + c.signExtend 64

/-- `r[rb] + uimm3 * 8`, the address of `(uimm3*8)(rb)` (spec/00_scope.md R14). -/
def regRelAddr (s : State) (rb : Reg) (uimm3 : Nat) : Word := s.reg rb + unsignedImm uimm3 * 8

/-- `pc + sext_9(simm9) * 2 + 2`, the target of `j` and `b` (spec/40_jumps_imm9.md R120, R121). -/
def branchTarget (s : State) (simm9 : Int) : Word := s.pc + signedImm simm9 * 2 + 2

/-- `ib + sext_9(simm9) * 64`, the new block of `ibj` (spec/40_jumps_imm9.md R122). -/
def blockTarget (s : State) (simm9 : Int) : Word := s.ib + signedImm simm9 * 64

/-! ### Link vectors (spec/10_state.md R31) -/

/-- The pc element, bits 31:0. -/
def vecPc (v : Word) : BitVec 32 := v.extractLsb' 0 32

/-- The ib element, bits 63:32. -/
def vecIb (v : Word) : BitVec 32 := v.extractLsb' 32 32

/-- The link vector of two elements. -/
def linkVector (rpc rib : BitVec 32) : Word := rib ++ rpc

/-! ### Shift distances -/

/-- `shift_distance(x)` (spec/45_three_operand.md R211). -/
def shiftDistance (rule : ShiftAmountRule) (x : Word) : Nat :=
  match rule with
  | .mask6 => (x.extractLsb' 0 6).toNat
  | .saturate => min x.toNat 64

end Sys2Proof.Machine
end

