-- ==== Sys2Proof/Machine/Imm6.lean ====
section
/-! DEFINITION. One register with a 6-bit immediate: `movib`, `movi`, `addi`, `srli`, `srai`, `slli`, `addib`, `leapc`
(spec/42_imm6_ops.md). -/

namespace Sys2Proof.Machine

/-- `movib.i64 rc, ib64(uimm6*8)` (spec/42_imm6_ops.md R140). -/
def execMovib (rc : Reg) (uimm6 : Nat) (s : State) : Result State :=
  andThen (readConst64 s (const64Addr s uimm6)) fun c => writeBack rc c s

/-- `movi.i64 rc, simm6` (spec/42_imm6_ops.md R141). -/
def execMovi (rc : Reg) (simm6 : Int) (s : State) : Result State := writeBack rc (signedImm simm6) s

/-- `addi.i64 rc, simm6` (spec/42_imm6_ops.md R142). -/
def execAddi (rc : Reg) (simm6 : Int) (s : State) : Result State :=
  writeBack rc (s.reg rc + signedImm simm6) s

/-- `srli.i64 rc, uimm6` (spec/42_imm6_ops.md R143). -/
def execSrli (rc : Reg) (uimm6 : Nat) (s : State) : Result State :=
  writeBack rc (shiftRightLogical (s.reg rc) uimm6) s

/-- `srai.i64 rc, uimm6` (spec/42_imm6_ops.md R144). -/
def execSrai (rc : Reg) (uimm6 : Nat) (s : State) : Result State :=
  writeBack rc (shiftRightArith (s.reg rc) uimm6) s

/-- `slli.i64 rc, uimm6` (spec/42_imm6_ops.md R145). -/
def execSlli (rc : Reg) (uimm6 : Nat) (s : State) : Result State :=
  writeBack rc (shiftLeft (s.reg rc) uimm6) s

/-- `addib.i64 rc, ib32(uimm6*4)` (spec/42_imm6_ops.md R146). -/
def execAddib (rc : Reg) (uimm6 : Nat) (s : State) : Result State :=
  andThen (readConst32 s (const32Addr s uimm6)) fun c => writeBack rc (s.reg rc + c.signExtend 64) s

/-- `leapc.i64 rc, ib32(uimm6*4)(pc)` (spec/42_imm6_ops.md R147). -/
def execLeapc (rc : Reg) (uimm6 : Nat) (s : State) : Result State :=
  andThen (readConst32 s (const32Addr s uimm6)) fun c => writeBack rc (pcRelAddr s c) s

end Sys2Proof.Machine
end

