-- ==== Sys2Proof/Machine/Jumps.lean ====
section
/-! DEFINITION. The jumps with a 9-bit immediate: `j`, `b`, `ibj` (spec/40_jumps_imm9.md). -/

namespace Sys2Proof.Machine

/-- `j simm9` (spec/40_jumps_imm9.md R120). -/
def execJ (simm9 : Int) (s : State) : Result State := .next (s.setPc (branchTarget s simm9))

/-- `b simm9`: taken when `flag` is set (spec/40_jumps_imm9.md R121). -/
def execB (simm9 : Int) (s : State) : Result State :=
  .next (if s.flag then s.setPc (branchTarget s simm9) else s.advance)

/-- `ibj simm9` (spec/40_jumps_imm9.md R122). -/
def execIbj (simm9 : Int) (s : State) : Result State := .next (s.setIb (blockTarget s simm9)).advance

end Sys2Proof.Machine
end

