-- ==== Sys2Proof/Machine/Link.lean ====
section
/-! DEFINITION. Call and return through a link vector: `jalib.i64`, `jtlib.i64` (spec/41_link_vector.md). -/

namespace Sys2Proof.Machine

/-- `jalib.i64 rc, ib64(uimm6*8)`: the constant is read at the old `ib`, `pc` and `ib` move by its elements, and `rc`
receives the constant itself (spec/41_link_vector.md R130). -/
def execJalib (rc : Reg) (uimm6 : Nat) (s : State) : Result State :=
  andThen (readConst64 s (const64Addr s uimm6)) fun v =>
    andThen (jumpPair (s.pc + (vecPc v).signExtend 64 + 2) (s.ib + (vecIb v).signExtend 64) s) fun t =>
      .next (t.setReg rc v)

/-- `jtlib.i64 rc, ib64(uimm6*8)`: each element of the vector in `rc` is subtracted from the constant's modulo 2^32,
the difference sign-extended and added (spec/41_link_vector.md R131, R132, log 20). -/
def execJtlib (rc : Reg) (uimm6 : Nat) (s : State) : Result State :=
  andThen (readConst64 s (const64Addr s uimm6)) fun c =>
    jumpPair (s.pc + (vecPc c - vecPc (s.reg rc)).signExtend 64)
      (s.ib + (vecIb c - vecIb (s.reg rc)).signExtend 64) s

end Sys2Proof.Machine
end

