-- ==== Sys2Proof/Machine/LoadStore.lean ====
section
/-! DEFINITION. Loads and stores: `loadpc`, `storepc`, `load`, `store` (spec/43_loads_stores.md). -/

namespace Sys2Proof.Machine

/-- `loadpc.i64 rc, ib32(uimm6*4)(pc)` (spec/43_loads_stores.md R160). -/
def execLoadpc (rc : Reg) (uimm6 : Nat) (s : State) : Result State :=
  andThen (readConst32 s (const32Addr s uimm6)) fun c =>
    andThen (loadData s (pcRelAddr s c)) fun v => writeBack rc v s

/-- `storepc.i64 rc, ib32(uimm6*4)(pc)` (spec/43_loads_stores.md R161). -/
def execStorepc (rc : Reg) (uimm6 : Nat) (s : State) : Result State :=
  andThen (readConst32 s (const32Addr s uimm6)) fun c =>
    andThen (storeData s (pcRelAddr s c) (s.reg rc)) fun t => .next t.advance

/-- `load.i64 rc, (uimm3*8)(rb)` (spec/43_loads_stores.md R162). -/
def execLoad (rc rb : Reg) (uimm3 : Nat) (s : State) : Result State :=
  andThen (loadData s (regRelAddr s rb uimm3)) fun v => writeBack rc v s

/-- `store.i64 rc, (uimm3*8)(rb)` (spec/43_loads_stores.md R163). -/
def execStore (rc rb : Reg) (uimm3 : Nat) (s : State) : Result State :=
  andThen (storeData s (regRelAddr s rb uimm3) (s.reg rc)) fun t => .next t.advance

end Sys2Proof.Machine
end

