-- ==== Sys2Proof/Machine/Logic.lean ====
section
/-! DEFINITION. `logic.i64` by its function selector (spec/44_compare_logic.md R180 to R188). -/

namespace Sys2Proof.Machine

/-- `logic.i64 rc, rb, mov` (spec/44_compare_logic.md R181). -/
def execLogicMov (rc rb : Reg) (s : State) : Result State := writeBack rc (s.reg rb) s

/-- `logic.i64 rc, rb, not` (spec/44_compare_logic.md R182). -/
def execLogicNot (rc rb : Reg) (s : State) : Result State := writeBack rc (~~~(s.reg rb)) s

/-- `logic.i64 rc, rb, neg` (spec/44_compare_logic.md R183). -/
def execLogicNeg (rc rb : Reg) (s : State) : Result State := writeBack rc (0 - s.reg rb) s

/-- `logic.i64 rc, rb, bswap` (spec/44_compare_logic.md R184). -/
def execLogicBswap (rc rb : Reg) (s : State) : Result State := writeBack rc (byteSwap (s.reg rb)) s

/-- `logic.i64 rc, rb, ctz` (spec/44_compare_logic.md R185). -/
def execLogicCtz (rc rb : Reg) (s : State) : Result State :=
  writeBack rc (unsignedImm (countTrailingZeros (s.reg rb))) s

/-- `logic.i64 rc, rb, clz` (spec/44_compare_logic.md R186). -/
def execLogicClz (rc rb : Reg) (s : State) : Result State :=
  writeBack rc (unsignedImm (countLeadingZeros (s.reg rb))) s

/-- `logic.i64 rc, rb, ctpop` (spec/44_compare_logic.md R187). -/
def execLogicCtpop (rc rb : Reg) (s : State) : Result State :=
  writeBack rc (unsignedImm (countPopulation (s.reg rb))) s

/-- `logic.i64 rc, rb, sext`: from SEXT_SRC_BITS bits (spec/44_compare_logic.md R188, log 15). -/
def execLogicSext (rc rb : Reg) (s : State) : Result State :=
  writeBack rc (signExtendFrom s.params.sextSrcBits (s.reg rb)) s

end Sys2Proof.Machine
end

