-- ==== Sys2Proof/Machine/System.lean ====
section
/-! DEFINITION. The system instructions `break` and `illegal` (spec/46_system.md), and the heads of the longer
instructions, which are refused (spec/30_encoding.md R104). -/

namespace Sys2Proof.Machine

/-- `break uimm9`: the debugger trap (spec/46_system.md R230). -/
def execBreak (uimm9 : Nat) (s : State) : Result State := .next (takeTrap (.breakpoint uimm9) s)

/-- `illegal uimm9`: the illegal instruction trap (spec/46_system.md R231). -/
def execIllegal (uimm9 : Nat) (s : State) : Result State := .next (takeTrap (.illegalInstruction uimm9) s)

/-- The head of a 32-bit instruction: refused, no state changed (spec/30_encoding.md R104). -/
def execReserved32 (_rest : Nat) (_s : State) : Result State := .refused .unmodelledLength

/-- The head of a 64-bit instruction: refused, no state changed (spec/30_encoding.md R104). -/
def execReserved64 (_rest : Nat) (_s : State) : Result State := .refused .unmodelledLength

/-- The head of a 128-bit instruction, or a continuation packet: refused, no state changed
(spec/30_encoding.md R104). -/
def execReserved128 (_rest : Nat) (_s : State) : Result State := .refused .unmodelledLength

end Sys2Proof.Machine
end

