-- ==== Sys2Proof/Machine/ThreeReg.lean ====
section
/-! DEFINITION. The three-register instructions: `pin`, `and`, `or`, `xor`, `add`, `srl`, `sra`, `sll`, `sub`, `mul`,
`div` (spec/45_three_operand.md). `rb` is the left operand, `ra` the right one. -/

namespace Sys2Proof.Machine

/-- `pin.i64 rc, rb, ra`: the link vector from the targets `r[ra]`, `r[rb]` back to `(pc + 2, ib)`
(spec/45_three_operand.md R200). -/
def execPin (rc rb ra : Reg) (s : State) : Result State :=
  writeBack rc (linkVector ((s.pc + 2 - s.reg ra).setWidth 32) ((s.ib - s.reg rb).setWidth 32)) s

/-- `and.i64 rc, rb, ra` (spec/45_three_operand.md R201). -/
def execAnd (rc rb ra : Reg) (s : State) : Result State := writeBack rc (s.reg rb &&& s.reg ra) s

/-- `or.i64 rc, rb, ra` (spec/45_three_operand.md R202). -/
def execOr (rc rb ra : Reg) (s : State) : Result State := writeBack rc (s.reg rb ||| s.reg ra) s

/-- `xor.i64 rc, rb, ra` (spec/45_three_operand.md R203). -/
def execXor (rc rb ra : Reg) (s : State) : Result State := writeBack rc (s.reg rb ^^^ s.reg ra) s

/-- `add.i64 rc, rb, ra` (spec/45_three_operand.md R204). -/
def execAdd (rc rb ra : Reg) (s : State) : Result State := writeBack rc (s.reg rb + s.reg ra) s

/-- `srl.i64 rc, rb, ra` (spec/45_three_operand.md R205, R211). -/
def execSrl (rc rb ra : Reg) (s : State) : Result State :=
  writeBack rc (shiftRightLogical (s.reg rb) (shiftDistance s.params.shiftAmountRule (s.reg ra))) s

/-- `sra.i64 rc, rb, ra` (spec/45_three_operand.md R206, R211). -/
def execSra (rc rb ra : Reg) (s : State) : Result State :=
  writeBack rc (shiftRightArith (s.reg rb) (shiftDistance s.params.shiftAmountRule (s.reg ra))) s

/-- `sll.i64 rc, rb, ra` (spec/45_three_operand.md R207, R211). -/
def execSll (rc rb ra : Reg) (s : State) : Result State :=
  writeBack rc (shiftLeft (s.reg rb) (shiftDistance s.params.shiftAmountRule (s.reg ra))) s

/-- `sub.i64 rc, rb, ra` (spec/45_three_operand.md R208). -/
def execSub (rc rb ra : Reg) (s : State) : Result State := writeBack rc (s.reg rb - s.reg ra) s

/-- `mul.i64 rc, rb, ra` (spec/45_three_operand.md R209). -/
def execMul (rc rb ra : Reg) (s : State) : Result State := writeBack rc (multiply (s.reg rb) (s.reg ra)) s

/-- `div.i64 rc, rb, ra`: a zero divisor traps; -2^63 by -1 does what DIV_OVERFLOW_RESULT says, log 13; else the
quotient toward zero (spec/45_three_operand.md R210, R213). -/
def execDiv (rc rb ra : Reg) (s : State) : Result State :=
  if s.reg ra = 0 then .next (takeTrap .divideByZero s)
  else if divOverflows (s.reg rb) (s.reg ra) then
    match Config.divOverflowResult with
    | .value v => writeBack rc v s
    | .trap cause => .next (takeTrap (.divOverflow cause) s)
  else writeBack rc (divideSigned (s.reg rb) (s.reg ra)) s

end Sys2Proof.Machine
end

