-- ==== Sys2Proof/Machine/Dispatch.lean ====
section
/-! DEFINITION. Which meaning an instruction has: one arm per constructor. -/

namespace Sys2Proof.Machine

def exec (i : Instr) (s : State) : Host.Outcome State Fault Refusal :=
  match i with
  | .brk uimm9 => Sys2Proof.Machine.execBreak uimm9 s
  | .j simm9 => Sys2Proof.Machine.execJ simm9 s
  | .b simm9 => Sys2Proof.Machine.execB simm9 s
  | .ibj simm9 => Sys2Proof.Machine.execIbj simm9 s
  | .jalib rc uimm6 => Sys2Proof.Machine.execJalib rc uimm6 s
  | .jtlib rc uimm6 => Sys2Proof.Machine.execJtlib rc uimm6 s
  | .movib rc uimm6 => Sys2Proof.Machine.execMovib rc uimm6 s
  | .movi rc simm6 => Sys2Proof.Machine.execMovi rc simm6 s
  | .addi rc simm6 => Sys2Proof.Machine.execAddi rc simm6 s
  | .srli rc uimm6 => Sys2Proof.Machine.execSrli rc uimm6 s
  | .srai rc uimm6 => Sys2Proof.Machine.execSrai rc uimm6 s
  | .slli rc uimm6 => Sys2Proof.Machine.execSlli rc uimm6 s
  | .addib rc uimm6 => Sys2Proof.Machine.execAddib rc uimm6 s
  | .leapc rc uimm6 => Sys2Proof.Machine.execLeapc rc uimm6 s
  | .loadpc rc uimm6 => Sys2Proof.Machine.execLoadpc rc uimm6 s
  | .storepc rc uimm6 => Sys2Proof.Machine.execStorepc rc uimm6 s
  | .load rc rb uimm3 => Sys2Proof.Machine.execLoad rc rb uimm3 s
  | .store rc rb uimm3 => Sys2Proof.Machine.execStore rc rb uimm3 s
  | .compareLt rc rb => Sys2Proof.Machine.execCompareLt rc rb s
  | .compareGe rc rb => Sys2Proof.Machine.execCompareGe rc rb s
  | .compareEq rc rb => Sys2Proof.Machine.execCompareEq rc rb s
  | .compareNe rc rb => Sys2Proof.Machine.execCompareNe rc rb s
  | .compareLtu rc rb => Sys2Proof.Machine.execCompareLtu rc rb s
  | .compareGeu rc rb => Sys2Proof.Machine.execCompareGeu rc rb s
  | .compareMov rc rb => Sys2Proof.Machine.execCompareMov rc rb s
  | .compareReserved rc rb => Sys2Proof.Machine.execCompareReserved rc rb s
  | .logicMov rc rb => Sys2Proof.Machine.execLogicMov rc rb s
  | .logicNot rc rb => Sys2Proof.Machine.execLogicNot rc rb s
  | .logicNeg rc rb => Sys2Proof.Machine.execLogicNeg rc rb s
  | .logicBswap rc rb => Sys2Proof.Machine.execLogicBswap rc rb s
  | .logicCtz rc rb => Sys2Proof.Machine.execLogicCtz rc rb s
  | .logicClz rc rb => Sys2Proof.Machine.execLogicClz rc rb s
  | .logicCtpop rc rb => Sys2Proof.Machine.execLogicCtpop rc rb s
  | .logicSext rc rb => Sys2Proof.Machine.execLogicSext rc rb s
  | .pin rc rb ra => Sys2Proof.Machine.execPin rc rb ra s
  | .and rc rb ra => Sys2Proof.Machine.execAnd rc rb ra s
  | .or rc rb ra => Sys2Proof.Machine.execOr rc rb ra s
  | .xor rc rb ra => Sys2Proof.Machine.execXor rc rb ra s
  | .add rc rb ra => Sys2Proof.Machine.execAdd rc rb ra s
  | .srl rc rb ra => Sys2Proof.Machine.execSrl rc rb ra s
  | .sra rc rb ra => Sys2Proof.Machine.execSra rc rb ra s
  | .sll rc rb ra => Sys2Proof.Machine.execSll rc rb ra s
  | .sub rc rb ra => Sys2Proof.Machine.execSub rc rb ra s
  | .mul rc rb ra => Sys2Proof.Machine.execMul rc rb ra s
  | .div rc rb ra => Sys2Proof.Machine.execDiv rc rb ra s
  | .illegal uimm9 => Sys2Proof.Machine.execIllegal uimm9 s
  | .reserved32 rest => Sys2Proof.Machine.execReserved32 rest s
  | .reserved64 rest => Sys2Proof.Machine.execReserved64 rest s
  | .reserved128 rest => Sys2Proof.Machine.execReserved128 rest s

end Sys2Proof.Machine
end

