-- ==== Sys2Proof/Machine/Step.lean ====
section
/-! DEFINITION. One step: fetch, decode, execute (spec/60_exceptions.md R248, spec/30_encoding.md R106). -/

namespace Sys2Proof.Machine

/-- One instruction: the packet at `pc` is fetched and decoded, and its meaning is applied to the state. The meaning
itself sets `pc` (spec/00_scope.md R12). -/
def step (s : State) : Host.Outcome State Fault Refusal := andThen (fetch s) fun w => exec (decodePacket w) s

/-- The map with the packet at `a` made readable code where a fetch there is not admitted; log 21. -/
def MemoryMap.withFetchAt (m : MemoryMap) (a : Word) : MemoryMap :=
  if m.admitsRead a 2 then m else ⟨a.toNat, 2, true, false, .code⟩ :: m

/-- The state with an instruction's bytes stored at `pc`, where `step` fetches: the load of a program from outside
(log 21). Nothing else changes where MEMORY_MAP admits the fetch. -/
def State.withFetchWord (s : State) (nbits w : Nat) : State :=
  { s with
    mem := s.mem.writeBytes s.pc (instrBytes nbits w)
    params := { s.params with memoryMap := s.params.memoryMap.withFetchAt s.pc } }

end Sys2Proof.Machine
end

