-- ==== Sys2Proof/Machine/Assembler.lean ====
section
/-! DEFINITION. What the assembler and the calling convention add to the instructions: register roles
(spec/10_state.md R23), sections and data directives (spec/30_encoding.md R109, R113), the constants of `call` and
`ret` (spec/41_link_vector.md R134), pseudo-instructions (spec/30_encoding.md R110 to R112). No step depends on it. -/

namespace Sys2Proof.Machine

/-! ### Register roles -/

/-- The aliases of a register (spec/10_state.md R23). -/
def abiNames : Reg → List String
  | .r0 => ["sp"]
  | .r1 => ["s0", "fp"]
  | .r2 => ["s1"]
  | .r3 => ["s2"]
  | .r4 => ["t0"]
  | .r5 => ["a0"]
  | .r6 => ["a1"]
  | .r7 => ["ra"]

/-- "`ib`, `r0`..`r3` callee-save, `r4`..`r7` caller-save" (spec/30_encoding.md R114); `ib` is callee-save too. -/
def calleeSaved : Reg → Bool
  | .r0 | .r1 | .r2 | .r3 => true
  | .r4 | .r5 | .r6 | .r7 => false

/-- The link register of `call` and `ret` (spec/30_encoding.md R112). -/
def linkReg : Reg := .r7

/-! ### Sections and directives -/

/-- The common sections of an object file (spec/30_encoding.md R113). -/
inductive Section where
  | text | const | data | rodata | bss
  deriving DecidableEq, Repr

/-- The section is read-write (spec/30_encoding.md R113). -/
def sectionWritable : Section → Bool
  | .text | .const | .rodata => false
  | .data | .bss => true

/-- What a section holds, in the words of MEMORY_MAP (spec/20_memory.md R60, R66; spec/30_encoding.md R113). -/
def sectionKind : Section → RegionKind
  | .text => .code
  | .const => .const
  | .data | .rodata | .bss => .data

/-- The region of MEMORY_MAP for a section placed at `base` (spec/20_memory.md R60, R66). -/
def sectionRegion (sec : Section) (base size : Nat) : Region := ⟨base, size, true, sectionWritable sec, sectionKind sec⟩

/-- The assembler's directives (spec/30_encoding.md R109). -/
inductive Directive where
  | byte (vs : List Int)
  | short (vs : List Int)
  | long (vs : List Int)
  | quad (vs : List Int)
  | octa (vs : List Int)
  | string (bytes : List Byte)
  | zero (n : Nat)
  | align (pow2 : Nat) (pad : Byte) (max : Option Nat)
  | balign (bytes : Nat) (pad : Byte)
  | globl (symbolName constName : String)
  | localSymbol (symbolName constName : String)
  | current (sec : Section)
  | common (symbolName : String) (size align : Nat)
  | currentNamed (sectionName : String)
  | equ (name : String) (value : Int)
  | file (name : String)
  | ident (text : String)
  | size (symbol extent : String)
  | functionType (symbol : String)
  deriving DecidableEq, Repr

/-- Words of `n` bytes, each little-endian (spec/20_memory.md R50). DESIGN CHOICE: the spec does not say what a
directive does with a value that its width cannot hold, and the model keeps the value modulo 256^n, log 28. -/
def emitWords (n : Nat) (vs : List Int) : List Byte := vs.flatMap fun v => splitLE n (v % 256 ^ n).toNat

/-- How many bytes bring `pos` to the next multiple of `n`; none for `n` = 0, PRESUMED, log 25. -/
def padding (pos n : Nat) : Nat := if n = 0 then 0 else (n - pos % n) % n

/-- The bytes a directive adds at offset `pos` of the current section (spec/30_encoding.md R109). PRESUMED, log 25: the
first argument `pow2` of `.align` is the exponent, so that it pads to a multiple of 2^pow2, its third argument is the
most bytes it may add, and `.string` adds just the bytes it is given. -/
def emitDirective (pos : Nat) : Directive → List Byte
  | .byte vs => emitWords 1 vs
  | .short vs => emitWords 2 vs
  | .long vs => emitWords 4 vs
  | .quad vs => emitWords 8 vs
  | .octa vs => emitWords 16 vs
  | .string bytes => bytes
  | .zero n => List.replicate n 0
  | .align pow2 pad max =>
    let k := padding pos (2 ^ pow2)
    match max with
    | none => List.replicate k pad
    | some m => if k ≤ m then List.replicate k pad else []
  | .balign bytes pad => List.replicate (padding pos bytes) pad
  | .globl _ _ => []
  | .localSymbol _ _ => []
  | .current _ => []
  | .common _ _ _ => []
  | .currentNamed _ => []
  | .equ _ _ => []
  | .file _ => []
  | .ident _ => []
  | .size _ _ => []
  | .functionType _ => []

/-! ### Pseudo-instructions -/

/-- Where an instruction stands: its own address and the `ib` in force there. -/
structure Site where
  pc : Word
  ib : Word
  deriving DecidableEq, Repr

/-- A function's two labels, "one in the .text section, and one in the .const section" (spec/30_encoding.md R109). -/
structure FunctionLabels where
  text : Word
  const : Word
  deriving DecidableEq, Repr

/-- The constant of `call symbol`: `rpc = symbol.text - (C + 2)`, `rib = symbol.const - IBc`
(spec/41_link_vector.md R134). DESIGN CHOICE: of a distance that 32 bits signed cannot hold, which the spec does not
speak of, the low 32 bits are placed, log 29. -/
def callVector (site : Site) (f : FunctionLabels) : Word :=
  linkVector ((f.text - (site.pc + 2)).setWidth 32) ((f.const - site.ib).setWidth 32)

/-- The constant of `ret`: `dpc = entry.text - R`, `dib = entry.const - IBr` (spec/41_link_vector.md R134). DESIGN
CHOICE: of a distance that 32 bits signed cannot hold, the low 32 bits are placed, log 29. -/
def retVector (site : Site) (entry : FunctionLabels) : Word :=
  linkVector ((entry.text - site.pc).setWidth 32) ((entry.const - site.ib).setWidth 32)

/-- The pseudo-instructions (spec/30_encoding.md R110); a `slot` is where the assembler puts the constant. -/
inductive Pseudo where
  | nop
  | li (rc : Reg) (value : Word) (slot : Nat)
  | la (rc : Reg) (symbol : Word) (slot : Nat)
  | call (symbol : FunctionLabels) (slot : Nat)
  | ret (entry : FunctionLabels) (slot : Nat)
  | cmpLt (rc rb : Reg)
  | cmpGt (rc rb : Reg)
  | cmpLe (rc rb : Reg)
  | cmpGe (rc rb : Reg)
  | cmpEq (rc rb : Reg)
  | cmpNe (rc rb : Reg)
  | cmpLtu (rc rb : Reg)
  | cmpGtu (rc rb : Reg)
  | cmpLeu (rc rb : Reg)
  | cmpGeu (rc rb : Reg)
  | cmov (rc rb : Reg)
  | mov (rc rb : Reg)
  | not (rc rb : Reg)
  | neg (rc rb : Reg)
  | bswap (rc rb : Reg)
  | ctz (rc rb : Reg)
  | clz (rc rb : Reg)
  | ctpop (rc rb : Reg)
  | sext (rc rb : Reg)
  deriving DecidableEq, Repr

/-- A value that `movi.i64` holds, -32..31 (spec/30_encoding.md R111). -/
def fitsMovi (value : Word) : Bool := decide (-32 ≤ value.toInt) && decide (value.toInt ≤ 31)

/-- The one instruction a pseudo-instruction assembles to (spec/30_encoding.md R110 to R112). For `li` and `la` this
is the spec's suggestion (R111), log 24. -/
def expandPseudo : Pseudo → Instr
  | .nop => .or .r0 .r0 .r0
  | .li rc value slot => if fitsMovi value then .movi rc value.toInt else .movib rc slot
  | .la rc _ slot => .leapc rc slot
  | .call _ slot => .jalib linkReg slot
  | .ret _ slot => .jtlib linkReg slot
  | .cmpLt rc rb => .compareLt rc rb
  | .cmpGt rc rb => .compareLt rb rc
  | .cmpLe rc rb => .compareGe rb rc
  | .cmpGe rc rb => .compareGe rc rb
  | .cmpEq rc rb => .compareEq rc rb
  | .cmpNe rc rb => .compareNe rc rb
  | .cmpLtu rc rb => .compareLtu rc rb
  | .cmpGtu rc rb => .compareLtu rb rc
  | .cmpLeu rc rb => .compareGeu rb rc
  | .cmpGeu rc rb => .compareGeu rc rb
  | .cmov rc rb => .compareMov rc rb
  | .mov rc rb => .logicMov rc rb
  | .not rc rb => .logicNot rc rb
  | .neg rc rb => .logicNeg rc rb
  | .bswap rc rb => .logicBswap rc rb
  | .ctz rc rb => .logicCtz rc rb
  | .clz rc rb => .logicClz rc rb
  | .ctpop rc rb => .logicCtpop rc rb
  | .sext rc rb => .logicSext rc rb

/-- The constant a pseudo-instruction needs in the immediate block: its address and its bytes
(spec/30_encoding.md R111, R112, spec/41_link_vector.md R134). DESIGN CHOICE: of a `la` distance
`symbol - address_of_the_leapc` that 32 bits signed cannot hold, the low 32 bits are placed, log 29. -/
def pseudoConstant (site : Site) : Pseudo → Option (Word × List Byte)
  | .li _ value slot =>
    if fitsMovi value then none else some (site.ib + unsignedImm slot * 8, splitLE 8 value.toNat)
  | .la _ symbol slot =>
    some (site.ib + unsignedImm slot * 4, splitLE 4 ((symbol - site.pc).setWidth 32).toNat)
  | .call symbol slot => some (site.ib + unsignedImm slot * 8, splitLE 8 (callVector site symbol).toNat)
  | .ret entry slot => some (site.ib + unsignedImm slot * 8, splitLE 8 (retVector site entry).toNat)
  | .nop => none
  | .cmpLt _ _ => none
  | .cmpGt _ _ => none
  | .cmpLe _ _ => none
  | .cmpGe _ _ => none
  | .cmpEq _ _ => none
  | .cmpNe _ _ => none
  | .cmpLtu _ _ => none
  | .cmpGtu _ _ => none
  | .cmpLeu _ _ => none
  | .cmpGeu _ _ => none
  | .cmov _ _ => none
  | .mov _ _ => none
  | .not _ _ => none
  | .neg _ _ => none
  | .bswap _ _ => none
  | .ctz _ _ => none
  | .clz _ _ => none
  | .ctpop _ _ => none
  | .sext _ _ => none

end Sys2Proof.Machine
end

