-- ==== Sys2Proof/Safety.lean ====
section
/-! DEFINITION. The terms in which claims are stated: the legal states, how a run starts and ends, and the frames
(what of the state an instruction leaves as it was). -/

namespace Sys2Proof.Machine

/-! ### Legal states -/

/-- What holds "in every state the model reaches": `pc` even (spec/10_state.md R24), `ib` a multiple of 64 (R27);
and memory in canonical form, SEXT_SRC_BITS a width (log 15). -/
abbrev State.Legal (s : State) : Prop :=
  isAligned s.pc 2 = true ∧ isAligned s.ib 64 = true ∧ s.mem.wf = true ∧ s.params.wf = true

/-- The launch conditions on the pair (pc, ib) (spec/70_reset_and_hazards.md R272 items 1 and 2): `pc` is even and
points at a packet with `sz` = 00 that may be fetched, `ib` is a multiple of 64 and the named 64-bit slots are
readable. -/
def State.Bootable (s : State) (slots : List Nat) : Prop :=
  (∃ w, fetch s = .next w ∧ packetSize w = 0) ∧ isAligned s.ib 64 = true ∧
    ∀ k ∈ slots, s.params.memoryMap.admitsRead (const64Addr s k) 8 = true

/-! ### Runs -/

/-- The run has ended: a trap was taken (spec/60_exceptions.md R252, spec/70_reset_and_hazards.md R273). -/
def State.ended (s : State) : Bool := s.lastTrap.isSome

/-- At most `n` steps, none after the first trap (spec/60_exceptions.md R252). -/
def runToTrap : Nat → State → Host.Outcome State Fault Refusal
  | 0, s => .next s
  | n + 1, s => if s.ended then .next s else andThen (step s) (runToTrap n)

/-- A call keeps what the callee must save: `r0` to `r3` and `ib` (spec/30_encoding.md R114). -/
def KeepsCalleeSaved (atCall atReturn : State) : Prop :=
  (∀ r, calleeSaved r = true → atReturn.reg r = atCall.reg r) ∧ atReturn.ib = atCall.ib

/-! ### Encodings and distances -/

/-- The number of a register, 0 to 7 (spec/10_state.md R21). -/
def regNumber (r : Reg) : Nat := r.toBits.toNat

/-- The packet of the instruction is the number `n` (spec/30_encoding.md R100, "To encode"). -/
def EncodesTo (i : Instr) (n : Nat) : Prop := (encodePacket i).toNat = n

/-- The distance is one that 32 bits signed hold, -2^31 to 2^31 - 1 (spec/41_link_vector.md R132, R135). -/
def Fits32 (d : Word) : Prop := -(2 ^ 31) ≤ d.toInt ∧ d.toInt < 2 ^ 31

/-- The general register an instruction writes: `rc`, but for `jtlib`, `storepc`, `store` and `compare` with `fun3` 0
to 5, which only read it (spec/10_state.md R20). -/
def destinationOf : Instr → Option Reg
  | .brk _ => none
  | .j _ => none
  | .b _ => none
  | .ibj _ => none
  | .jalib rc _ => some rc
  | .jtlib _ _ => none
  | .movib rc _ => some rc
  | .movi rc _ => some rc
  | .addi rc _ => some rc
  | .srli rc _ => some rc
  | .srai rc _ => some rc
  | .slli rc _ => some rc
  | .addib rc _ => some rc
  | .leapc rc _ => some rc
  | .loadpc rc _ => some rc
  | .storepc _ _ => none
  | .load rc _ _ => some rc
  | .store _ _ _ => none
  | .compareLt _ _ => none
  | .compareGe _ _ => none
  | .compareEq _ _ => none
  | .compareNe _ _ => none
  | .compareLtu _ _ => none
  | .compareGeu _ _ => none
  | .compareMov rc _ => some rc
  | .compareReserved _ _ => none
  | .logicMov rc _ => some rc
  | .logicNot rc _ => some rc
  | .logicNeg rc _ => some rc
  | .logicBswap rc _ => some rc
  | .logicCtz rc _ => some rc
  | .logicClz rc _ => some rc
  | .logicCtpop rc _ => some rc
  | .logicSext rc _ => some rc
  | .pin rc _ _ => some rc
  | .and rc _ _ => some rc
  | .or rc _ _ => some rc
  | .xor rc _ _ => some rc
  | .add rc _ _ => some rc
  | .srl rc _ _ => some rc
  | .sra rc _ _ => some rc
  | .sll rc _ _ => some rc
  | .sub rc _ _ => some rc
  | .mul rc _ _ => some rc
  | .div rc _ _ => some rc
  | .illegal _ => none
  | .reserved32 _ => none
  | .reserved64 _ => none
  | .reserved128 _ => none

/-! ### Frames -/

/-- Every byte of memory reads as before. -/
def SameMemory (s t : State) : Prop := ∀ a : Nat, t.mem.read a = s.mem.read a

/-- Every byte of memory outside the eight bytes from `addr` on reads as before. -/
def SameMemoryOutside (addr : Word) (s t : State) : Prop :=
  ∀ a : Nat, (∀ k : Nat, k < 8 → a ≠ (addr + BitVec.ofNat 64 k).toNat) → t.mem.read a = s.mem.read a

/-- The trap registers, the last trap and the parameters are as before. -/
structure NoTrap (s t : State) : Prop where
  tpc : t.tpc = s.tpc
  tcause : t.tcause = s.tcause
  lastTrap : t.lastTrap = s.lastTrap
  params : t.params = s.params

/-- All but `pc` and the register `rc` is as before. -/
structure OnlyReg (rc : Reg) (s t : State) : Prop where
  regs : ∀ r, r ≠ rc → t.reg r = s.reg r
  ib : t.ib = s.ib
  flag : t.flag = s.flag
  mem : SameMemory s t
  noTrap : NoTrap s t

/-- All but `pc` and `flag` is as before. -/
structure OnlyFlag (s t : State) : Prop where
  regs : ∀ r, t.reg r = s.reg r
  ib : t.ib = s.ib
  mem : SameMemory s t
  noTrap : NoTrap s t

/-- All but `pc` is as before. -/
structure OnlyPc (s t : State) : Prop where
  regs : ∀ r, t.reg r = s.reg r
  ib : t.ib = s.ib
  flag : t.flag = s.flag
  mem : SameMemory s t
  noTrap : NoTrap s t

/-- All but `pc` and `ib` is as before. -/
structure OnlyPcIb (s t : State) : Prop where
  regs : ∀ r, t.reg r = s.reg r
  flag : t.flag = s.flag
  mem : SameMemory s t
  noTrap : NoTrap s t

/-- All but `pc`, `ib` and the register `rc` is as before. -/
structure OnlyLink (rc : Reg) (s t : State) : Prop where
  regs : ∀ r, r ≠ rc → t.reg r = s.reg r
  flag : t.flag = s.flag
  mem : SameMemory s t
  noTrap : NoTrap s t

/-- All but `pc` and the eight bytes of memory from `addr` on is as before. -/
structure OnlyStored (addr : Word) (s t : State) : Prop where
  regs : ∀ r, t.reg r = s.reg r
  ib : t.ib = s.ib
  flag : t.flag = s.flag
  mem : SameMemoryOutside addr s t
  noTrap : NoTrap s t

/-- The state of a trap entry (spec/60_exceptions.md R244): `tpc` the old `pc`, `tcause` the cause, `pc` at
TRAP_VECTOR, the event kept, and everything else as before. -/
structure Trapped (e : Trap) (s t : State) : Prop where
  tpc : t.tpc = s.pc
  tcause : t.tcause = e.cause
  pc : t.pc = Config.trapVector
  lastTrap : t.lastTrap = some e
  regs : ∀ r, t.reg r = s.reg r
  ib : t.ib = s.ib
  flag : t.flag = s.flag
  mem : SameMemory s t
  params : t.params = s.params

/-- The instruction takes the trap `e` from both states, into one and the same state, which is the trap entry from
each (spec/60_exceptions.md R244, R249). -/
def TrapsAlike (i : Instr) (e : Trap) (s o : State) : Prop :=
  ∃ t, exec i s = .next t ∧ exec i o = .next t ∧ Trapped e s t ∧ Trapped e o t

/-- A 64-bit constant may be read at `a`: `ib` is a multiple of 64 and MEMORY_MAP admits the eight bytes, as memory
that is no device (spec/20_memory.md R51, R56, R60). -/
def State.constReadable (s : State) (a : Word) (n : Nat) : Prop :=
  isAligned s.ib 64 = true ∧ s.params.memoryMap.admitsRead a n = true

/-- The eight bytes from `a` on may be loaded: aligned, admitted, no device (spec/20_memory.md R51, R56, R60). -/
def State.loadable (s : State) (a : Word) : Prop :=
  isAligned a 8 = true ∧ s.params.memoryMap.admitsRead a 8 = true

/-- The eight bytes from `a` on may be stored to: aligned, admitted, no code, no constants, no device
(spec/20_memory.md R52, R56, R60, R66). -/
def State.storable (s : State) (a : Word) : Prop :=
  isAligned a 8 = true ∧ s.params.memoryMap.admitsWrite a 8 = true

end Sys2Proof.Machine
end

