-- ==== Sys2Proof/Certificates/Slice0/Obligations.lean ====
section
/-! DEFINITION. The statements for the provers, from the numbered rules of spec/. A statement of an instruction's
result also says its packet, that it completes, and its frame. -/

section

open Sys2Proof Sys2Proof.Machine

/-! ### Encoding -/

/-- Decoding the bytes of an encoded well-formed instruction gives the instruction back
(spec/30_encoding.md R88 to R92, R100 to R102). -/
def Obligations.DecodeEncodeRoundTrip : Prop :=
  ∀ i : Instr, i.WellFormed → decode (packetBytes (encodePacket i)) = .ok i []

/-- Every 16-bit value decodes to a well-formed instruction that encodes to that value: no packet has two readings
and none is lost (spec/30_encoding.md R106). -/
def Obligations.EncodeDecodeRoundTrip : Prop :=
  ∀ w : Packet, (decodePacket w).WellFormed ∧ encodePacket (decodePacket w) = w

/-- Every 16-bit value belongs to exactly one row of the opcode map (spec/30_encoding.md R100, R103, R104). -/
def Obligations.OpcodeRowsPartitionPackets : Prop :=
  ∀ w : Packet, ∃! r, r ∈ opcodeTable ∧ r.covers w = true

/-- Words written out from the spec's encodings decode to the instructions they stand for. -/
def Obligations.WrittenWordsDecode : Prop :=
  decodePacket 0b0000000110000100 = .j 3 ∧
  decodePacket 0b1110000000010000 = .jalib .r7 0 ∧
  decodePacket 0b0001110000100000 = .addi .r0 (-8) ∧
  decodePacket 0b1010001111000100 = .store .r5 .r0 7 ∧
  decodePacket 0b1011101001001000 = .compareLtu .r5 .r6 ∧
  decodePacket 0b1011100111001100 = .logicBswap .r5 .r6 ∧
  decodePacket 0b1111101011010000 = .pin .r7 .r6 .r5 ∧
  decodePacket 0b1111111111111100 = .illegal 511

/-- The fields of a longer instruction of n packets: 9n bits of operand, 5n of opcode and 2n of size; packet k carries
bits 9k+8 to 9k of the operand, 5k+4 to 5k of the opcode and 2k+1 to 2k of the size field
(spec/30_encoding.md R82 to R84). -/
def Obligations.TemplateFieldsByPacket : Prop :=
  ∀ (ws : List Packet) (k : Nat) (h : k < ws.length),
    (templateOf ws).operand < 2 ^ (9 * ws.length) ∧ (templateOf ws).opcode < 2 ^ (5 * ws.length) ∧
    (templateOf ws).size < 2 ^ (2 * ws.length) ∧
    (templateOf ws).operand / 2 ^ (9 * k) % 2 ^ 9 = (ws[k].toNat / 2 ^ 7) % 2 ^ 9 ∧
    (templateOf ws).opcode / 2 ^ (5 * k) % 2 ^ 5 = (ws[k].toNat / 2 ^ 2) % 2 ^ 5 ∧
    (templateOf ws).size / 2 ^ (2 * k) % 2 ^ 2 = ws[k].toNat % 2 ^ 2

/-! ### The step and the whole machine -/

/-- Where `pc` is even, the fetch admitted, and the two bytes at `pc` decode to `i`, the step is `exec i`: nothing
else happens around it (spec/60_exceptions.md R248, spec/20_memory.md R53). -/
def Obligations.StepRunsDecodedInstruction : Prop :=
  ∀ (s : State) (i : Instr), isAligned s.pc 2 = true → s.params.memoryMap.admitsRead s.pc 2 = true →
    decode [s.mem.read s.pc.toNat, s.mem.read (s.pc + 1).toNat] = .ok i [] → i.WellFormed → step s = exec i s

/-- Every step keeps `pc` even and `ib` a multiple of 64, memory in canonical form and the parameters legal
(spec/10_state.md R24, R27; the last two are the model's, logs 5 and 15; that TRAP_VECTOR is even is log 11). -/
def Obligations.StepKeepsLegal : Prop :=
  ∀ s t : State, s.Legal → step s = .next t → t.Legal

/-- The model's choice of a reset state (logs 4, 5, 16; the parameters' defaults are those of spec/00_scope.md R6):
it is legal and has taken no trap. -/
def Obligations.ResetIsLegal : Prop :=
  State.reset.Legal ∧ State.reset.ended = false ∧ State.reset.params.shiftAmountRule = .mask6 ∧
    State.reset.params.sextSrcBits = 32

/-- `flag` is written only by `compare.i64` with `fun3` 0 to 5 (spec/10_state.md R30). -/
def Obligations.FlagWrittenOnlyByCompare : Prop :=
  ∀ (i : Instr) (s t : State), exec i s = .next t → t.flag ≠ s.flag →
    ∃ rc rb, i = .compareLt rc rb ∨ i = .compareGe rc rb ∨ i = .compareEq rc rb ∨ i = .compareNe rc rb ∨
      i = .compareLtu rc rb ∨ i = .compareGeu rc rb

/-- `ib` is written only by `ibj`, `jalib` and `jtlib` (spec/10_state.md R28). -/
def Obligations.ImmediateBaseWrittenOnlyByThree : Prop :=
  ∀ (i : Instr) (s t : State), exec i s = .next t → t.ib ≠ s.ib →
    (∃ d, i = .ibj d) ∨ (∃ rc u, i = .jalib rc u) ∨ (∃ rc u, i = .jtlib rc u)

/-- Memory is written only by `store` and `storepc` (spec/10_state.md R20, R35). -/
def Obligations.MemoryWrittenOnlyByStores : Prop :=
  ∀ (i : Instr) (s t : State), exec i s = .next t → ¬ SameMemory s t →
    (∃ rc rb u, i = .store rc rb u) ∨ (∃ rc u, i = .storepc rc u)

/-- A general register is written only by an instruction that has it as its destination (spec/10_state.md R20). -/
def Obligations.RegistersWrittenOnlyByDestination : Prop :=
  ∀ (i : Instr) (s t : State) (r : Reg), exec i s = .next t → t.reg r ≠ s.reg r → destinationOf i = some r

/-- The trap registers are written only by a trap entry, and only `break`, `illegal` and `div.i64` trap
(spec/10_state.md R20, spec/60_exceptions.md R240; that -2^63 by -1 may trap too is log 13). -/
def Obligations.TrapRegistersWrittenOnlyByTraps : Prop :=
  ∀ (i : Instr) (s t : State), exec i s = .next t →
    NoTrap s t ∨ ∃ e, Trapped e s t ∧
      ((∃ u, i = .brk u) ∨ (∃ u, i = .illegal u) ∨ (∃ rc rb ra, i = .div rc rb ra))

/-- No instruction writes a parameter (spec/10_state.md R20); that they stand in the state is log 17. -/
def Obligations.ParametersConstant : Prop :=
  ∀ s t : State, step s = .next t → t.params = s.params

/-- A run takes no step after its first trap (spec/60_exceptions.md R252, logs 10 and 16): more fuel changes nothing. -/
def Obligations.RunEndsAtFirstTrap : Prop :=
  ∀ (n m : Nat) (s t : State), runToTrap n s = .next t → t.ended = true → n ≤ m → runToTrap m s = .next t

/-! ### Memory -/

/-- `MemRead(addr, n)` for n = 2, 4, 8 joins the bytes at `addr + k` modulo 2^64, the lowest address least
significant (spec/20_memory.md R51). -/
def Obligations.MemReadLittleEndian : Prop :=
  ∀ (m : Memory) (a : Word) (k b : Nat), b < 8 →
    (k < 2 → (m.read16 a).getLsbD (8 * k + b) = (m.read (a + BitVec.ofNat 64 k).toNat).getLsbD b) ∧
    (k < 4 → (m.read32 a).getLsbD (8 * k + b) = (m.read (a + BitVec.ofNat 64 k).toNat).getLsbD b) ∧
    (k < 8 → (m.read64 a).getLsbD (8 * k + b) = (m.read (a + BitVec.ofNat 64 k).toNat).getLsbD b)

/-- `MemWrite(addr, 8, v)` puts byte k of `v` at `addr + k` modulo 2^64 and changes no other byte
(spec/20_memory.md R52). -/
def Obligations.MemWriteLittleEndian : Prop :=
  ∀ (m : Memory) (a v : Word), m.wf = true →
    (∀ k b : Nat, k < 8 → b < 8 →
      ((m.write64 a v).read (a + BitVec.ofNat 64 k).toNat).getLsbD b = v.getLsbD (8 * k + b)) ∧
    (∀ x : Nat, (∀ k : Nat, k < 8 → x ≠ (a + BitVec.ofNat 64 k).toNat) → (m.write64 a v).read x = m.read x)

/-- After a 64-bit write at `a`, a 32-bit read at `a` sees bits 31:0 and one at `a + 4` sees bits 63:32; for a link
vector these are its pc and its ib element (spec/20_memory.md R54, spec/10_state.md R31). -/
def Obligations.MixedWidthReads : Prop :=
  ∀ (m : Memory) (a v : Word), m.wf = true →
    (m.write64 a v).read64 a = v ∧
    ((m.write64 a v).read32 a).toNat = v.toNat % 2 ^ 32 ∧ ((m.write64 a v).read32 (a + 4)).toNat = v.toNat / 2 ^ 32 ∧
    (m.write64 a v).read32 a = vecPc v ∧ (m.write64 a v).read32 (a + 4) = vecIb v

/-- The effective addresses, modulo 2^64, and no aligned access straddles the top (spec/20_memory.md R61). -/
def Obligations.EffectiveAddresses : Prop :=
  ∀ (s : State) (rb : Reg) (u : Nat) (c : BitVec 32),
    (const64Addr s u).toNat = (s.ib.toNat + u * 8) % 2 ^ 64 ∧
    (const32Addr s u).toNat = (s.ib.toNat + u * 4) % 2 ^ 64 ∧
    ((pcRelAddr s c).toNat : Int) = (s.pc.toNat + c.toInt) % 2 ^ 64 ∧
    (regRelAddr s rb u).toNat = ((s.reg rb).toNat + u * 8) % 2 ^ 64 ∧
    ∀ (a : Word) (n : Nat), n ∈ [2, 4, 8] → isAligned a n = true → a.toNat + n ≤ 2 ^ 64

/-! ### Jumps with a 9-bit immediate -/

/-- `j` (spec/40_jumps_imm9.md R120). -/
def Obligations.JumpMovesPc : Prop :=
  ∀ (d : Int) (s : State), fitsSigned 9 d = true →
    EncodesTo (.j d) ((d % 512).toNat * 128 + 0x0004) ∧
    ∃ t, exec (.j d) s = .next t ∧ (t.pc.toNat : Int) = (s.pc.toNat + d * 2 + 2) % 2 ^ 64 ∧ OnlyPc s t

/-- `b`: taken when `flag` is set, else `pc + 2` (spec/40_jumps_imm9.md R121). -/
def Obligations.BranchFollowsFlag : Prop :=
  ∀ (d : Int) (s : State), fitsSigned 9 d = true →
    EncodesTo (.b d) ((d % 512).toNat * 128 + 0x0008) ∧
    ∃ t, exec (.b d) s = .next t ∧ OnlyPc s t ∧
      (s.flag = true → (t.pc.toNat : Int) = (s.pc.toNat + d * 2 + 2) % 2 ^ 64) ∧
      (s.flag = false → t.pc.toNat = (s.pc.toNat + 2) % 2 ^ 64)

/-- `ibj` (spec/40_jumps_imm9.md R122). -/
def Obligations.BlockJumpMovesIb : Prop :=
  ∀ (d : Int) (s : State), fitsSigned 9 d = true →
    EncodesTo (.ibj d) ((d % 512).toNat * 128 + 0x000C) ∧
    ∃ t, exec (.ibj d) s = .next t ∧ (t.ib.toNat : Int) = (s.ib.toNat + d * 64) % 2 ^ 64 ∧
      t.pc = s.pc + 2 ∧ OnlyPcIb s t

/-! ### Link vectors -/

/-- `jalib`, with the refusal of a misaligned new pair (spec/41_link_vector.md R130). -/
def Obligations.JalibMovesPairAndLinks : Prop :=
  ∀ (rc : Reg) (u : Nat) (s : State), fitsUnsigned 6 u = true →
    EncodesTo (.jalib rc u) (regNumber rc * 8192 + u * 128 + 0x0010) ∧
    (s.constReadable (const64Addr s u) 8 →
      ∀ v, v = s.mem.read64 (const64Addr s u) →
      (s.pc.toNat + (vecPc v).toInt) % 2 = 0 → (s.ib.toNat + (vecIb v).toInt) % 64 = 0 →
      ∃ t, exec (.jalib rc u) s = .next t ∧
        (t.pc.toNat : Int) = (s.pc.toNat + (vecPc v).toInt + 2) % 2 ^ 64 ∧
        (t.ib.toNat : Int) = (s.ib.toNat + (vecIb v).toInt) % 2 ^ 64 ∧
        t.reg rc = v ∧ OnlyLink rc s t) ∧
    (s.constReadable (const64Addr s u) 8 →
      ∀ v, v = s.mem.read64 (const64Addr s u) →
      (s.pc.toNat + (vecPc v).toInt) % 2 ≠ 0 ∨ (s.ib.toNat + (vecIb v).toInt) % 64 ≠ 0 →
      ∃ p b, exec (.jalib rc u) s = .refused (.misalignedTarget p b))

/-- `jtlib`: each element difference modulo 2^32, sign-extended and added, with the refusal of a misaligned new pair
(spec/41_link_vector.md R131, R132). -/
def Obligations.JtlibMovesPairBack : Prop :=
  ∀ (rc : Reg) (u : Nat) (s : State), fitsUnsigned 6 u = true →
    EncodesTo (.jtlib rc u) (regNumber rc * 8192 + u * 128 + 0x0014) ∧
    (s.constReadable (const64Addr s u) 8 →
      ∀ (c : Word) (epc eib : Int), c = s.mem.read64 (const64Addr s u) →
      epc = ((vecPc c).toInt - (vecPc (s.reg rc)).toInt).bmod (2 ^ 32) →
      eib = ((vecIb c).toInt - (vecIb (s.reg rc)).toInt).bmod (2 ^ 32) →
      (s.pc.toNat + epc) % 2 = 0 → (s.ib.toNat + eib) % 64 = 0 →
      ∃ t, exec (.jtlib rc u) s = .next t ∧
        (t.pc.toNat : Int) = (s.pc.toNat + epc) % 2 ^ 64 ∧ (t.ib.toNat : Int) = (s.ib.toNat + eib) % 2 ^ 64 ∧
        OnlyPcIb s t) ∧
    (s.constReadable (const64Addr s u) 8 →
      ∀ (c : Word) (epc eib : Int), c = s.mem.read64 (const64Addr s u) →
      epc = ((vecPc c).toInt - (vecPc (s.reg rc)).toInt).bmod (2 ^ 32) →
      eib = ((vecIb c).toInt - (vecIb (s.reg rc)).toInt).bmod (2 ^ 32) →
      (s.pc.toNat + epc) % 2 ≠ 0 ∨ (s.ib.toNat + eib) % 64 ≠ 0 →
      ∃ p b, exec (.jtlib rc u) s = .refused (.misalignedTarget p b))

/-- `jalib` and `jtlib` with a new `pc` that is odd or a new `ib` that is no multiple of 64 are refused
(spec/41_link_vector.md R136). -/
def Obligations.MisalignedTargetRefused : Prop :=
  ∀ (rc : Reg) (u : Nat) (s : State), s.constReadable (const64Addr s u) 8 →
    (∀ p b : Word, p = s.pc + (vecPc (s.mem.read64 (const64Addr s u))).signExtend 64 + 2 →
      b = s.ib + (vecIb (s.mem.read64 (const64Addr s u))).signExtend 64 →
      p.toNat % 2 ≠ 0 ∨ b.toNat % 64 ≠ 0 → exec (.jalib rc u) s = .refused (.misalignedTarget p b)) ∧
    (∀ p b : Word, p = s.pc + (vecPc (s.mem.read64 (const64Addr s u)) - vecPc (s.reg rc)).signExtend 64 →
      b = s.ib + (vecIb (s.mem.read64 (const64Addr s u)) - vecIb (s.reg rc)).signExtend 64 →
      p.toNat % 2 ≠ 0 ∨ b.toNat % 64 ≠ 0 → exec (.jtlib rc u) s = .refused (.misalignedTarget p b))

/-- Call and return: after a `jalib` at C that enters E, a `jtlib` at R through the same link vector lands on C + 2 with
the caller's `ib` exactly when its constant is the way from R back to E, wherever the distances back fit in 32 bits
(spec/41_link_vector.md R133, R134). -/
def Obligations.CallThenReturnComesBack : Prop :=
  ∀ (rc : Reg) (uc ur : Nat) (c e r : State), isAligned c.pc 2 = true → isAligned c.ib 64 = true →
    exec (.jalib rc uc) c = .next e →
    r.reg rc = e.reg rc →
    r.constReadable (const64Addr r ur) 8 →
    Fits32 (c.pc + 2 - r.pc) → Fits32 (c.ib - r.ib) →
    ((∃ t, exec (.jtlib rc ur) r = .next t ∧ t.pc = c.pc + 2 ∧ t.ib = c.ib ∧ OnlyPcIb r t) ↔
      r.mem.read64 (const64Addr r ur) = retVector ⟨r.pc, r.ib⟩ ⟨e.pc, e.ib⟩)

/-- `call` with the constant the assembler places reaches the symbol's two labels, where the distances fit in 32 bits
(spec/41_link_vector.md R134, spec/30_encoding.md R112). -/
def Obligations.CallReachesSymbol : Prop :=
  ∀ (f : FunctionLabels) (slot : Nat) (s : State), s.constReadable (const64Addr s slot) 8 →
    s.mem.read64 (const64Addr s slot) = callVector ⟨s.pc, s.ib⟩ f →
    isAligned f.text 2 = true → isAligned f.const 64 = true →
    Fits32 (f.text - (s.pc + 2)) → Fits32 (f.const - s.ib) →
    ∃ t, exec (expandPseudo (.call f slot)) s = .next t ∧ t.pc = f.text ∧ t.ib = f.const ∧
      t.reg .r7 = callVector ⟨s.pc, s.ib⟩ f ∧ OnlyLink .r7 s t

/-- `pin` and then `jtlib` with a zero constant jump to the absolute pair (`r[ra]`, `r[rb]`), wherever the distances
fit in 32 bits (spec/41_link_vector.md R135). -/
def Obligations.PinThenJtlibJumpsToPair : Prop :=
  ∀ (rc rb ra : Reg) (u : Nat) (s p : State), exec (.pin rc rb ra) s = .next p →
    p.constReadable (const64Addr p u) 8 → p.mem.read64 (const64Addr p u) = 0 →
    (s.reg ra).toNat % 2 = 0 → (s.reg rb).toNat % 64 = 0 →
    Fits32 (s.reg ra - (s.pc + 2)) → Fits32 (s.reg rb - s.ib) →
    ∃ t, exec (.jtlib rc u) p = .next t ∧ t.pc = s.reg ra ∧ t.ib = s.reg rb ∧ OnlyPcIb p t

/-! ### One register with a 6-bit immediate -/

/-- `movib` (spec/42_imm6_ops.md R140). -/
def Obligations.MovibLoadsConstant : Prop :=
  ∀ (rc : Reg) (u : Nat) (s : State), fitsUnsigned 6 u = true →
    EncodesTo (.movib rc u) (regNumber rc * 8192 + u * 128 + 0x0018) ∧
    (s.constReadable (const64Addr s u) 8 →
      ∃ t, exec (.movib rc u) s = .next t ∧ t.reg rc = s.mem.read64 (const64Addr s u) ∧ t.pc = s.pc + 2 ∧
        OnlyReg rc s t)

/-- `movi` and `addi` (spec/42_imm6_ops.md R141, R142). -/
def Obligations.MoviAndAddi : Prop :=
  ∀ (rc : Reg) (d : Int) (s : State), fitsSigned 6 d = true →
    (EncodesTo (.movi rc d) (regNumber rc * 8192 + (d % 64).toNat * 128 + 0x001C) ∧
      ∃ t, exec (.movi rc d) s = .next t ∧ (t.reg rc).toInt = d ∧ t.pc = s.pc + 2 ∧ OnlyReg rc s t) ∧
    (EncodesTo (.addi rc d) (regNumber rc * 8192 + (d % 64).toNat * 128 + 0x0020) ∧
      ∃ t, exec (.addi rc d) s = .next t ∧ ((t.reg rc).toNat : Int) = ((s.reg rc).toNat + d) % 2 ^ 64 ∧
        t.pc = s.pc + 2 ∧ OnlyReg rc s t)

/-- `srli`, `srai` and `slli` (spec/42_imm6_ops.md R143 to R145). -/
def Obligations.ImmediateShifts : Prop :=
  ∀ (rc : Reg) (u : Nat) (s : State), fitsUnsigned 6 u = true →
    (EncodesTo (.srli rc u) (regNumber rc * 8192 + u * 128 + 0x0024) ∧
      ∃ t, exec (.srli rc u) s = .next t ∧ (t.reg rc).toNat = (s.reg rc).toNat / 2 ^ u ∧ t.pc = s.pc + 2 ∧
        OnlyReg rc s t) ∧
    (EncodesTo (.srai rc u) (regNumber rc * 8192 + u * 128 + 0x0028) ∧
      ∃ t, exec (.srai rc u) s = .next t ∧ (t.reg rc).toInt = (s.reg rc).toInt / 2 ^ u ∧ t.pc = s.pc + 2 ∧
        OnlyReg rc s t) ∧
    (EncodesTo (.slli rc u) (regNumber rc * 8192 + u * 128 + 0x002C) ∧
      ∃ t, exec (.slli rc u) s = .next t ∧ (t.reg rc).toNat = (s.reg rc).toNat * 2 ^ u % 2 ^ 64 ∧ t.pc = s.pc + 2 ∧
        OnlyReg rc s t)

/-- `addib` and `leapc` (spec/42_imm6_ops.md R146, R147). -/
def Obligations.AddibAndLeapc : Prop :=
  ∀ (rc : Reg) (u : Nat) (s : State), fitsUnsigned 6 u = true →
    EncodesTo (.addib rc u) (regNumber rc * 8192 + u * 128 + 0x0030) ∧
    EncodesTo (.leapc rc u) (regNumber rc * 8192 + u * 128 + 0x0034) ∧
    (s.constReadable (const32Addr s u) 4 → ∀ c, c = s.mem.read32 (const32Addr s u) →
      (∃ t, exec (.addib rc u) s = .next t ∧ ((t.reg rc).toNat : Int) = ((s.reg rc).toNat + c.toInt) % 2 ^ 64 ∧
        t.pc = s.pc + 2 ∧ OnlyReg rc s t) ∧
      (∃ t, exec (.leapc rc u) s = .next t ∧ ((t.reg rc).toNat : Int) = (s.pc.toNat + c.toInt) % 2 ^ 64 ∧
        t.pc = s.pc + 2 ∧ OnlyReg rc s t))

/-! ### Loads and stores -/

/-- `load` and `loadpc`, with the refusal of a misaligned address (spec/43_loads_stores.md R160, R162). -/
def Obligations.LoadsReadMemory : Prop :=
  ∀ (rc rb : Reg) (u : Nat) (s : State),
    (fitsUnsigned 3 u = true →
      EncodesTo (.load rc rb u) (regNumber rc * 8192 + regNumber rb * 1024 + u * 128 + 0x0040)) ∧
    (s.loadable (regRelAddr s rb u) →
      ∃ t, exec (.load rc rb u) s = .next t ∧ t.reg rc = s.mem.read64 (regRelAddr s rb u) ∧ t.pc = s.pc + 2 ∧
        OnlyReg rc s t) ∧
    (fitsUnsigned 6 u = true → EncodesTo (.loadpc rc u) (regNumber rc * 8192 + u * 128 + 0x0038)) ∧
    (s.constReadable (const32Addr s u) 4 → ∀ a, a = pcRelAddr s (s.mem.read32 (const32Addr s u)) → s.loadable a →
      ∃ t, exec (.loadpc rc u) s = .next t ∧ t.reg rc = s.mem.read64 a ∧ t.pc = s.pc + 2 ∧ OnlyReg rc s t) ∧
    ((regRelAddr s rb u).toNat % 8 ≠ 0 → exec (.load rc rb u) s = .refused (.misalignedAccess (regRelAddr s rb u))) ∧
    (s.constReadable (const32Addr s u) 4 → ∀ a, a = pcRelAddr s (s.mem.read32 (const32Addr s u)) →
      a.toNat % 8 ≠ 0 → exec (.loadpc rc u) s = .refused (.misalignedAccess a))

/-- `store` and `storepc`, with the refusal of a misaligned address (spec/43_loads_stores.md R161, R163). -/
def Obligations.StoresWriteMemory : Prop :=
  ∀ (rc rb : Reg) (u : Nat) (s : State), s.mem.wf = true →
    (fitsUnsigned 3 u = true →
      EncodesTo (.store rc rb u) (regNumber rc * 8192 + regNumber rb * 1024 + u * 128 + 0x0044)) ∧
    (s.storable (regRelAddr s rb u) →
      ∃ t, exec (.store rc rb u) s = .next t ∧ t.pc = s.pc + 2 ∧ OnlyStored (regRelAddr s rb u) s t ∧
        ∀ k b : Nat, k < 8 → b < 8 →
          (t.mem.read (regRelAddr s rb u + BitVec.ofNat 64 k).toNat).getLsbD b = (s.reg rc).getLsbD (8 * k + b)) ∧
    (fitsUnsigned 6 u = true → EncodesTo (.storepc rc u) (regNumber rc * 8192 + u * 128 + 0x003C)) ∧
    (s.constReadable (const32Addr s u) 4 → ∀ a, a = pcRelAddr s (s.mem.read32 (const32Addr s u)) → s.storable a →
      ∃ t, exec (.storepc rc u) s = .next t ∧ t.pc = s.pc + 2 ∧ OnlyStored a s t ∧
        ∀ k b : Nat, k < 8 → b < 8 →
          (t.mem.read (a + BitVec.ofNat 64 k).toNat).getLsbD b = (s.reg rc).getLsbD (8 * k + b)) ∧
    ((regRelAddr s rb u).toNat % 8 ≠ 0 → exec (.store rc rb u) s = .refused (.misalignedAccess (regRelAddr s rb u))) ∧
    (s.constReadable (const32Addr s u) 4 → ∀ a, a = pcRelAddr s (s.mem.read32 (const32Addr s u)) →
      a.toNat % 8 ≠ 0 → exec (.storepc rc u) s = .refused (.misalignedAccess a))

/-- What `store` stores, `load` with the same base and offset loads back, whatever register it goes to
(spec/43_loads_stores.md R162, R163). -/
def Obligations.StoreThenLoadReturnsValue : Prop :=
  ∀ (rc rb rd : Reg) (u : Nat) (s t : State), s.mem.wf = true → exec (.store rc rb u) s = .next t →
    t.loadable (regRelAddr t rb u) → ∃ v, exec (.load rd rb u) t = .next v ∧ v.reg rd = s.reg rc

/-- A 64-bit data access at an address that is not a multiple of 8 is refused, and so is a constant read where `ib` is
not a multiple of 64 (spec/20_memory.md R56; under which name the latter is refused is log 19). -/
def Obligations.MisalignedAccessRefused : Prop :=
  ∀ (rc rb : Reg) (u : Nat) (s : State),
    (∀ a, a = regRelAddr s rb u → a.toNat % 8 ≠ 0 →
      exec (.load rc rb u) s = .refused (.misalignedAccess a) ∧
      exec (.store rc rb u) s = .refused (.misalignedAccess a)) ∧
    (s.constReadable (const32Addr s u) 4 → ∀ a, a = pcRelAddr s (s.mem.read32 (const32Addr s u)) →
      a.toNat % 8 ≠ 0 →
      exec (.loadpc rc u) s = .refused (.misalignedAccess a) ∧
      exec (.storepc rc u) s = .refused (.misalignedAccess a)) ∧
    (s.ib.toNat % 64 ≠ 0 →
      (∀ i ∈ [Instr.jalib rc u, .jtlib rc u, .movib rc u],
        exec i s = .refused (.misalignedAccess (const64Addr s u))) ∧
      (∀ i ∈ [Instr.addib rc u, .leapc rc u, .loadpc rc u, .storepc rc u],
        exec i s = .refused (.misalignedAccess (const32Addr s u))))

/-- An aligned store one of whose bytes MEMORY_MAP marks as code or constants is refused (spec/20_memory.md R66). That
one byte of the eight suffices, and that the refusal wins where a byte is not writable either, is the model's choice,
log 8. -/
def Obligations.StoreToCodeOrConstRefused : Prop :=
  ∀ (rc rb : Reg) (u k : Nat) (s : State), k < 8 →
    (∀ a, a = regRelAddr s rb u → a.toNat % 8 = 0 →
      s.params.memoryMap.codeOrConst (a + BitVec.ofNat 64 k).toNat = true →
      exec (.store rc rb u) s = .refused (.storeToCodeOrConst a)) ∧
    (s.constReadable (const32Addr s u) 4 → ∀ a, a = pcRelAddr s (s.mem.read32 (const32Addr s u)) →
      a.toNat % 8 = 0 → s.params.memoryMap.codeOrConst (a + BitVec.ofNat 64 k).toNat = true →
      exec (.storepc rc u) s = .refused (.storeToCodeOrConst a))

/-- An access one of whose bytes MEMORY_MAP does not admit has no step: the fetch at an even `pc`, a constant read, an
aligned load, and an aligned store to no code and no constants; nor has a fetch at an odd `pc`
(spec/20_memory.md R60, spec/60_exceptions.md R248; the order of the checks is log 8, the odd `pc` log 18). -/
def Obligations.NotAdmittedHasNoStep : Prop :=
  ∀ (rc rb : Reg) (u k : Nat) (s : State),
    (s.pc.toNat % 2 = 1 → step s = .fault .oddPc) ∧
    (s.pc.toNat % 2 = 0 → k < 2 → s.params.memoryMap.readable (s.pc + BitVec.ofNat 64 k).toNat = false →
      step s = .fault (.notAdmitted .fetch s.pc)) ∧
    (s.ib.toNat % 64 = 0 → k < 8 →
      s.params.memoryMap.readable (const64Addr s u + BitVec.ofNat 64 k).toNat = false →
      ∀ i ∈ [Instr.jalib rc u, .jtlib rc u, .movib rc u],
        exec i s = .fault (.notAdmitted .const (const64Addr s u))) ∧
    (s.ib.toNat % 64 = 0 → k < 4 →
      s.params.memoryMap.readable (const32Addr s u + BitVec.ofNat 64 k).toNat = false →
      ∀ i ∈ [Instr.addib rc u, .leapc rc u, .loadpc rc u, .storepc rc u],
        exec i s = .fault (.notAdmitted .const (const32Addr s u))) ∧
    (∀ a, a.toNat % 8 = 0 → k < 8 → s.params.memoryMap.readable (a + BitVec.ofNat 64 k).toNat = false →
      (a = regRelAddr s rb u → exec (.load rc rb u) s = .fault (.notAdmitted .load a)) ∧
      (s.constReadable (const32Addr s u) 4 → a = pcRelAddr s (s.mem.read32 (const32Addr s u)) →
        exec (.loadpc rc u) s = .fault (.notAdmitted .load a))) ∧
    (∀ a, a.toNat % 8 = 0 → k < 8 → s.params.memoryMap.writable (a + BitVec.ofNat 64 k).toNat = false →
      (∀ j : Nat, j < 8 → s.params.memoryMap.codeOrConst (a + BitVec.ofNat 64 j).toNat = false) →
      (a = regRelAddr s rb u → exec (.store rc rb u) s = .fault (.notAdmitted .store a)) ∧
      (s.constReadable (const32Addr s u) 4 → a = pcRelAddr s (s.mem.read32 (const32Addr s u)) →
        exec (.storepc rc u) s = .fault (.notAdmitted .store a)))

/-- The model's choice (notes/assumptions/9.md), from "D0 ... defines no device" (spec/20_memory.md R59): an access
that MEMORY_MAP admits and that touches a device is refused by name. -/
def Obligations.DeviceAccessRefused : Prop :=
  ∀ (rc rb : Reg) (u k : Nat) (s : State),
    (s.pc.toNat % 2 = 0 → s.params.memoryMap.allReadable s.pc 2 = true → k < 2 →
      s.params.memoryMap.device (s.pc + BitVec.ofNat 64 k).toNat = true →
      step s = .refused (.deviceAccess .fetch s.pc)) ∧
    (s.ib.toNat % 64 = 0 → s.params.memoryMap.allReadable (const64Addr s u) 8 = true → k < 8 →
      s.params.memoryMap.device (const64Addr s u + BitVec.ofNat 64 k).toNat = true →
      ∀ i ∈ [Instr.jalib rc u, .jtlib rc u, .movib rc u],
        exec i s = .refused (.deviceAccess .const (const64Addr s u))) ∧
    (s.ib.toNat % 64 = 0 → s.params.memoryMap.allReadable (const32Addr s u) 4 = true → k < 4 →
      s.params.memoryMap.device (const32Addr s u + BitVec.ofNat 64 k).toNat = true →
      ∀ i ∈ [Instr.addib rc u, .leapc rc u, .loadpc rc u, .storepc rc u],
        exec i s = .refused (.deviceAccess .const (const32Addr s u))) ∧
    (∀ a, a.toNat % 8 = 0 → k < 8 → s.params.memoryMap.device (a + BitVec.ofNat 64 k).toNat = true →
      s.params.memoryMap.allReadable a 8 = true →
      (a = regRelAddr s rb u → exec (.load rc rb u) s = .refused (.deviceAccess .load a)) ∧
      (s.constReadable (const32Addr s u) 4 → a = pcRelAddr s (s.mem.read32 (const32Addr s u)) →
        exec (.loadpc rc u) s = .refused (.deviceAccess .load a))) ∧
    (∀ a, a.toNat % 8 = 0 → k < 8 → s.params.memoryMap.device (a + BitVec.ofNat 64 k).toNat = true →
      s.params.memoryMap.anyCodeOrConst a 8 = false → s.params.memoryMap.allWritable a 8 = true →
      (a = regRelAddr s rb u → exec (.store rc rb u) s = .refused (.deviceAccess .store a)) ∧
      (s.constReadable (const32Addr s u) 4 → a = pcRelAddr s (s.mem.read32 (const32Addr s u)) →
        exec (.storepc rc u) s = .refused (.deviceAccess .store a)))

/-! ### compare.i64 -/

/-- `lt` and `ge` (spec/44_compare_logic.md R171, R172). -/
def Obligations.CompareSigned : Prop :=
  ∀ (rc rb : Reg) (s : State),
    (EncodesTo (.compareLt rc rb) (regNumber rc * 8192 + regNumber rb * 1024 + 0x0048) ∧
      ∃ t, exec (.compareLt rc rb) s = .next t ∧ (t.flag = true ↔ (s.reg rc).toInt < (s.reg rb).toInt) ∧
        t.pc = s.pc + 2 ∧ OnlyFlag s t) ∧
    (EncodesTo (.compareGe rc rb) (regNumber rc * 8192 + regNumber rb * 1024 + 0x00C8) ∧
      ∃ t, exec (.compareGe rc rb) s = .next t ∧ (t.flag = true ↔ (s.reg rc).toInt ≥ (s.reg rb).toInt) ∧
        t.pc = s.pc + 2 ∧ OnlyFlag s t)

/-- `eq` and `ne` (spec/44_compare_logic.md R173, R174). -/
def Obligations.CompareEquality : Prop :=
  ∀ (rc rb : Reg) (s : State),
    (EncodesTo (.compareEq rc rb) (regNumber rc * 8192 + regNumber rb * 1024 + 0x0148) ∧
      ∃ t, exec (.compareEq rc rb) s = .next t ∧ (t.flag = true ↔ s.reg rc = s.reg rb) ∧ t.pc = s.pc + 2 ∧
        OnlyFlag s t) ∧
    (EncodesTo (.compareNe rc rb) (regNumber rc * 8192 + regNumber rb * 1024 + 0x01C8) ∧
      ∃ t, exec (.compareNe rc rb) s = .next t ∧ (t.flag = true ↔ s.reg rc ≠ s.reg rb) ∧ t.pc = s.pc + 2 ∧
        OnlyFlag s t)

/-- `ltu` and `geu` (spec/44_compare_logic.md R175, R176). -/
def Obligations.CompareUnsigned : Prop :=
  ∀ (rc rb : Reg) (s : State),
    (EncodesTo (.compareLtu rc rb) (regNumber rc * 8192 + regNumber rb * 1024 + 0x0248) ∧
      ∃ t, exec (.compareLtu rc rb) s = .next t ∧ (t.flag = true ↔ (s.reg rc).toNat < (s.reg rb).toNat) ∧
        t.pc = s.pc + 2 ∧ OnlyFlag s t) ∧
    (EncodesTo (.compareGeu rc rb) (regNumber rc * 8192 + regNumber rb * 1024 + 0x02C8) ∧
      ∃ t, exec (.compareGeu rc rb) s = .next t ∧ (t.flag = true ↔ (s.reg rc).toNat ≥ (s.reg rb).toNat) ∧
        t.pc = s.pc + 2 ∧ OnlyFlag s t)

/-- The four comparisons that are pseudo-instructions with their operands swapped (spec/30_encoding.md R110). -/
def Obligations.SwappedComparisons : Prop :=
  ∀ (rc rb : Reg) (s : State),
    (∃ t, exec (expandPseudo (.cmpGt rc rb)) s = .next t ∧ (t.flag = true ↔ (s.reg rc).toInt > (s.reg rb).toInt) ∧
      t.pc = s.pc + 2 ∧ OnlyFlag s t) ∧
    (∃ t, exec (expandPseudo (.cmpLe rc rb)) s = .next t ∧ (t.flag = true ↔ (s.reg rc).toInt ≤ (s.reg rb).toInt) ∧
      t.pc = s.pc + 2 ∧ OnlyFlag s t) ∧
    (∃ t, exec (expandPseudo (.cmpGtu rc rb)) s = .next t ∧ (t.flag = true ↔ (s.reg rc).toNat > (s.reg rb).toNat) ∧
      t.pc = s.pc + 2 ∧ OnlyFlag s t) ∧
    (∃ t, exec (expandPseudo (.cmpLeu rc rb)) s = .next t ∧ (t.flag = true ↔ (s.reg rc).toNat ≤ (s.reg rb).toNat) ∧
      t.pc = s.pc + 2 ∧ OnlyFlag s t)

/-- The conditional move (spec/44_compare_logic.md R177). -/
def Obligations.ConditionalMove : Prop :=
  ∀ (rc rb : Reg) (s : State),
    EncodesTo (.compareMov rc rb) (regNumber rc * 8192 + regNumber rb * 1024 + 0x0348) ∧
    ∃ t, exec (.compareMov rc rb) s = .next t ∧ t.pc = s.pc + 2 ∧ OnlyReg rc s t ∧
      (s.flag = true → t.reg rc = s.reg rb) ∧ (s.flag = false → t.reg rc = s.reg rc)

/-- `compare.i64` with `fun3` = 7 is refused (spec/44_compare_logic.md R178). -/
def Obligations.ReservedCompareRefused : Prop :=
  ∀ (rc rb : Reg) (s : State),
    EncodesTo (.compareReserved rc rb) (regNumber rc * 8192 + regNumber rb * 1024 + 0x03C8) ∧
    exec (.compareReserved rc rb) s = .refused .reservedEncoding

/-- The head packet of a longer instruction, at an even and admitted `pc`, is refused: it is not skipped, not read as
a 16-bit instruction, and it does not trap (spec/30_encoding.md R104). -/
def Obligations.LongerLengthRefused : Prop :=
  (∀ (n : Nat) (s : State), exec (.reserved32 n) s = .refused .unmodelledLength ∧
    exec (.reserved64 n) s = .refused .unmodelledLength ∧ exec (.reserved128 n) s = .refused .unmodelledLength) ∧
  ∀ s : State, isAligned s.pc 2 = true → s.params.memoryMap.admitsRead s.pc 2 = true →
    (s.mem.read s.pc.toNat).toNat % 4 ≠ 0 → step s = .refused .unmodelledLength

/-! ### logic.i64 -/

/-- `mov`, `not` and `neg` (spec/44_compare_logic.md R181 to R183). -/
def Obligations.LogicMovNotNeg : Prop :=
  ∀ (rc rb : Reg) (s : State),
    (EncodesTo (.logicMov rc rb) (regNumber rc * 8192 + regNumber rb * 1024 + 0x004C) ∧
      ∃ t, exec (.logicMov rc rb) s = .next t ∧ t.reg rc = s.reg rb ∧ t.pc = s.pc + 2 ∧ OnlyReg rc s t) ∧
    (EncodesTo (.logicNot rc rb) (regNumber rc * 8192 + regNumber rb * 1024 + 0x00CC) ∧
      ∃ t, exec (.logicNot rc rb) s = .next t ∧
        (∀ k : Nat, k < 64 → (t.reg rc).getLsbD k = !(s.reg rb).getLsbD k) ∧ t.pc = s.pc + 2 ∧ OnlyReg rc s t) ∧
    (EncodesTo (.logicNeg rc rb) (regNumber rc * 8192 + regNumber rb * 1024 + 0x014C) ∧
      ∃ t, exec (.logicNeg rc rb) s = .next t ∧ ((t.reg rc).toNat : Int) = (0 - (s.reg rb).toNat) % 2 ^ 64 ∧
        t.pc = s.pc + 2 ∧ OnlyReg rc s t)

/-- `bswap` (spec/44_compare_logic.md R184). -/
def Obligations.LogicBswap : Prop :=
  ∀ (rc rb : Reg) (s : State),
    EncodesTo (.logicBswap rc rb) (regNumber rc * 8192 + regNumber rb * 1024 + 0x01CC) ∧
    ∃ t, exec (.logicBswap rc rb) s = .next t ∧
      (∀ k b : Nat, k < 8 → b < 8 → (t.reg rc).getLsbD (8 * k + b) = (s.reg rb).getLsbD (8 * (7 - k) + b)) ∧
      t.pc = s.pc + 2 ∧ OnlyReg rc s t

/-- `ctz` (spec/44_compare_logic.md R185). -/
def Obligations.LogicCtz : Prop :=
  ∀ (rc rb : Reg) (s : State),
    EncodesTo (.logicCtz rc rb) (regNumber rc * 8192 + regNumber rb * 1024 + 0x024C) ∧
    ∃ t, exec (.logicCtz rc rb) s = .next t ∧ t.pc = s.pc + 2 ∧ OnlyReg rc s t ∧
      (s.reg rb = 0 → (t.reg rc).toNat = 64) ∧
      ∀ k : Nat, k < 64 → (s.reg rb).getLsbD k = true → (∀ j : Nat, j < k → (s.reg rb).getLsbD j = false) →
        (t.reg rc).toNat = k

/-- `clz` (spec/44_compare_logic.md R186). -/
def Obligations.LogicClz : Prop :=
  ∀ (rc rb : Reg) (s : State),
    EncodesTo (.logicClz rc rb) (regNumber rc * 8192 + regNumber rb * 1024 + 0x02CC) ∧
    ∃ t, exec (.logicClz rc rb) s = .next t ∧ t.pc = s.pc + 2 ∧ OnlyReg rc s t ∧
      (s.reg rb = 0 → (t.reg rc).toNat = 64) ∧
      ∀ k : Nat, k < 64 → (s.reg rb).getLsbD k = true →
        (∀ j : Nat, k < j → j < 64 → (s.reg rb).getLsbD j = false) → (t.reg rc).toNat = 63 - k

/-- `ctpop` (spec/44_compare_logic.md R187). -/
def Obligations.LogicCtpop : Prop :=
  ∀ (rc rb : Reg) (s : State),
    EncodesTo (.logicCtpop rc rb) (regNumber rc * 8192 + regNumber rb * 1024 + 0x034C) ∧
    ∃ t, exec (.logicCtpop rc rb) s = .next t ∧
      (t.reg rc).toNat = ∑ k ∈ Finset.range 64, ((s.reg rb).getLsbD k).toNat ∧ t.pc = s.pc + 2 ∧ OnlyReg rc s t

/-- `sext` from SEXT_SRC_BITS bits, whatever width from 1 to 64 that is (spec/44_compare_logic.md R188, log 15). -/
def Obligations.LogicSext : Prop :=
  ∀ (rc rb : Reg) (s : State), s.params.wf = true →
    EncodesTo (.logicSext rc rb) (regNumber rc * 8192 + regNumber rb * 1024 + 0x03CC) ∧
    ∃ t, exec (.logicSext rc rb) s = .next t ∧
      (t.reg rc).toInt = ((s.reg rb).toNat : Int).bmod (2 ^ s.params.sextSrcBits) ∧ t.pc = s.pc + 2 ∧ OnlyReg rc s t

/-! ### Three registers -/

/-- `pin` (spec/45_three_operand.md R200). -/
def Obligations.PinPacksDistances : Prop :=
  ∀ (rc rb ra : Reg) (s : State),
    EncodesTo (.pin rc rb ra) (regNumber rc * 8192 + regNumber rb * 1024 + regNumber ra * 128 + 0x0050) ∧
    ∃ t, exec (.pin rc rb ra) s = .next t ∧
      (((t.reg rc).toNat % 2 ^ 32 : Nat) : Int) = (s.pc.toNat + 2 - (s.reg ra).toNat) % 2 ^ 32 ∧
      (((t.reg rc).toNat / 2 ^ 32 : Nat) : Int) = (s.ib.toNat - (s.reg rb).toNat) % 2 ^ 32 ∧
      t.pc = s.pc + 2 ∧ OnlyReg rc s t

/-- `and`, `or` and `xor` (spec/45_three_operand.md R201 to R203). -/
def Obligations.BitwiseOperations : Prop :=
  ∀ (rc rb ra : Reg) (s : State),
    (EncodesTo (.and rc rb ra) (regNumber rc * 8192 + regNumber rb * 1024 + regNumber ra * 128 + 0x0054) ∧
      ∃ t, exec (.and rc rb ra) s = .next t ∧
        (∀ k : Nat, k < 64 → (t.reg rc).getLsbD k = ((s.reg rb).getLsbD k && (s.reg ra).getLsbD k)) ∧
        t.pc = s.pc + 2 ∧ OnlyReg rc s t) ∧
    (EncodesTo (.or rc rb ra) (regNumber rc * 8192 + regNumber rb * 1024 + regNumber ra * 128 + 0x0058) ∧
      ∃ t, exec (.or rc rb ra) s = .next t ∧
        (∀ k : Nat, k < 64 → (t.reg rc).getLsbD k = ((s.reg rb).getLsbD k || (s.reg ra).getLsbD k)) ∧
        t.pc = s.pc + 2 ∧ OnlyReg rc s t) ∧
    (EncodesTo (.xor rc rb ra) (regNumber rc * 8192 + regNumber rb * 1024 + regNumber ra * 128 + 0x005C) ∧
      ∃ t, exec (.xor rc rb ra) s = .next t ∧
        (∀ k : Nat, k < 64 → (t.reg rc).getLsbD k = ((s.reg rb).getLsbD k ^^ (s.reg ra).getLsbD k)) ∧
        t.pc = s.pc + 2 ∧ OnlyReg rc s t)

/-- `add`, `sub` and `mul` (spec/45_three_operand.md R204, R208, R209). -/
def Obligations.AddSubMul : Prop :=
  ∀ (rc rb ra : Reg) (s : State),
    (EncodesTo (.add rc rb ra) (regNumber rc * 8192 + regNumber rb * 1024 + regNumber ra * 128 + 0x0060) ∧
      ∃ t, exec (.add rc rb ra) s = .next t ∧
        (t.reg rc).toNat = ((s.reg rb).toNat + (s.reg ra).toNat) % 2 ^ 64 ∧ t.pc = s.pc + 2 ∧ OnlyReg rc s t) ∧
    (EncodesTo (.sub rc rb ra) (regNumber rc * 8192 + regNumber rb * 1024 + regNumber ra * 128 + 0x0070) ∧
      ∃ t, exec (.sub rc rb ra) s = .next t ∧
        ((t.reg rc).toNat : Int) = ((s.reg rb).toNat - (s.reg ra).toNat) % 2 ^ 64 ∧ t.pc = s.pc + 2 ∧
        OnlyReg rc s t) ∧
    (EncodesTo (.mul rc rb ra) (regNumber rc * 8192 + regNumber rb * 1024 + regNumber ra * 128 + 0x0074) ∧
      ∃ t, exec (.mul rc rb ra) s = .next t ∧
        (t.reg rc).toNat = (s.reg rb).toNat * (s.reg ra).toNat % 2 ^ 64 ∧
        (t.reg rc).toInt = ((s.reg rb).toInt * (s.reg ra).toInt).bmod (2 ^ 64) ∧ t.pc = s.pc + 2 ∧ OnlyReg rc s t)

/-- `srl`, `sra` and `sll`: the distance is `r[ra]` below 64 and what SHIFT_AMOUNT_RULE says from 64 on
(spec/45_three_operand.md R205 to R207, R211). -/
def Obligations.RegisterShifts : Prop :=
  ∀ (rc rb ra : Reg) (s : State) (d : Nat),
    ((s.reg ra).toNat < 64 → d = (s.reg ra).toNat) →
    (64 ≤ (s.reg ra).toNat → s.params.shiftAmountRule = .mask6 → d = (s.reg ra).toNat % 64) →
    (64 ≤ (s.reg ra).toNat → s.params.shiftAmountRule = .saturate → d = 64) →
    (EncodesTo (.srl rc rb ra) (regNumber rc * 8192 + regNumber rb * 1024 + regNumber ra * 128 + 0x0064) ∧
      ∃ t, exec (.srl rc rb ra) s = .next t ∧ (t.reg rc).toNat = (s.reg rb).toNat / 2 ^ d ∧ t.pc = s.pc + 2 ∧
        OnlyReg rc s t) ∧
    (EncodesTo (.sra rc rb ra) (regNumber rc * 8192 + regNumber rb * 1024 + regNumber ra * 128 + 0x0068) ∧
      ∃ t, exec (.sra rc rb ra) s = .next t ∧ (t.reg rc).toInt = (s.reg rb).toInt / 2 ^ d ∧ t.pc = s.pc + 2 ∧
        OnlyReg rc s t) ∧
    (EncodesTo (.sll rc rb ra) (regNumber rc * 8192 + regNumber rb * 1024 + regNumber ra * 128 + 0x006C) ∧
      ∃ t, exec (.sll rc rb ra) s = .next t ∧ (t.reg rc).toNat = (s.reg rb).toNat * 2 ^ d % 2 ^ 64 ∧
        t.pc = s.pc + 2 ∧ OnlyReg rc s t)

/-- `div`: the quotient toward zero where it exists and fits; a zero divisor traps whatever the dividend, and `r[rc]` is
not written; -2^63 by -1 does what DIV_OVERFLOW_RESULT says, a value for `r[rc]` or a trap with the parameter's cause
(spec/45_three_operand.md R210, R213, spec/60_exceptions.md R242). That the overflow is never refused and that its trap
takes the entry of R244 is the model's choice, log 13. -/
def Obligations.DivisionByCases : Prop :=
  ∀ (rc rb ra : Reg) (s : State),
    EncodesTo (.div rc rb ra) (regNumber rc * 8192 + regNumber rb * 1024 + regNumber ra * 128 + 0x0078) ∧
    (s.reg ra ≠ 0 → ¬ ((s.reg rb).toInt = -(2 ^ 63) ∧ (s.reg ra).toInt = -1) →
      ∃ t, exec (.div rc rb ra) s = .next t ∧ (t.reg rc).toInt = Int.tdiv (s.reg rb).toInt (s.reg ra).toInt ∧
        t.pc = s.pc + 2 ∧ OnlyReg rc s t) ∧
    (s.reg ra = 0 → ∃ t, exec (.div rc rb ra) s = .next t ∧ Trapped .divideByZero s t) ∧
    ((s.reg rb).toInt = -(2 ^ 63) → (s.reg ra).toInt = -1 →
      ∃ t, exec (.div rc rb ra) s = .next t ∧
        ((∃ v, Config.divOverflowResult = .value v ∧ t.reg rc = v ∧ t.pc = s.pc + 2 ∧ OnlyReg rc s t) ∨
          (∃ cause, Config.divOverflowResult = .trap cause ∧ Trapped (.divOverflow cause) s t)))

/-! ### Traps -/

/-- `break` and `illegal` take their trap, whatever `uimm9` (spec/46_system.md R230, R231). -/
def Obligations.BreakAndIllegalTrap : Prop :=
  ∀ (u : Nat) (s : State), fitsUnsigned 9 u = true →
    (EncodesTo (.brk u) (u * 128) ∧ ∃ t, exec (.brk u) s = .next t ∧ Trapped (.breakpoint u) s t) ∧
    (EncodesTo (.illegal u) (u * 128 + 0x007C) ∧
      ∃ t, exec (.illegal u) s = .next t ∧ Trapped (.illegalInstruction u) s t)

/-- The cause values are CAUSE_BREAK, CAUSE_ILLEGAL and CAUSE_DIV0, pairwise distinct (spec/60_exceptions.md R241,
log 12). -/
def Obligations.CausesDistinct : Prop :=
  (∀ u, (Trap.breakpoint u).cause = Config.causeBreak) ∧
  (∀ u, (Trap.illegalInstruction u).cause = Config.causeIllegal) ∧ Trap.divideByZero.cause = Config.causeDiv0 ∧
  Config.causeBreak ≠ Config.causeIllegal ∧ Config.causeIllegal ≠ Config.causeDiv0 ∧
  Config.causeBreak ≠ Config.causeDiv0

/-- In a model that goes on at TRAP_VECTOR, as this one does (log 10), a trap taken after others overwrites `tpc` and
`tcause`, and the earlier values are lost (spec/60_exceptions.md R249): whatever `tpc`, `tcause` and the last trap hold,
`break`, `illegal` and `div` by zero, and -2^63 by -1 where DIV_OVERFLOW_RESULT is a trap (log 13), take the same trap
into the same state. -/
def Obligations.SecondTrapOverwrites : Prop :=
  ∀ (s o : State) (p : Word) (c : Nat) (l : Option Trap), o = { s with tpc := p, tcause := c, lastTrap := l } →
    (∀ u, TrapsAlike (.brk u) (.breakpoint u) s o) ∧
    (∀ u, TrapsAlike (.illegal u) (.illegalInstruction u) s o) ∧
    (∀ rc rb ra, s.reg ra = 0 → TrapsAlike (.div rc rb ra) .divideByZero s o) ∧
    (∀ rc rb ra, (s.reg rb).toInt = -(2 ^ 63) → (s.reg ra).toInt = -1 →
      (∃ v, Config.divOverflowResult = .value v) ∨
        (∃ cause, Config.divOverflowResult = .trap cause ∧ TrapsAlike (.div rc rb ra) (.divOverflow cause) s o))

end
end

