-- ==== Sys2Proof/Laws/Codec.lean ====
section
/-! SUPPORT. The fields of a packed packet are what was packed (spec/30_encoding.md R88 to R91), the bits under a
row's mask are its opcode and selector (R100), and a signed field reads back as the integer it was made from. -/

namespace Sys2Proof

/-! ### Registers and signed fields -/

@[simp] theorem Reg.ofBits_toBits (r : Reg) : Reg.ofBits r.toBits = r := by cases r <;> rfl

@[simp] theorem Reg.toBits_ofBits (b : BitVec 3) : (Reg.ofBits b).toBits = b := by
  revert b
  decide

theorem toInt_ofInt_of_fits {n : Nat} {v : Int} (h : fitsSigned (n + 1) v = true) :
    (BitVec.ofInt (n + 1) v).toInt = v := by
  simp only [fitsSigned, decide_eq_true_eq, Nat.add_sub_cancel] at h
  rw [BitVec.toInt_ofInt]
  apply Int.bmod_eq_of_le <;> push_cast <;> omega

theorem toNat_ofNat_of_fits {n v : Nat} (h : fitsUnsigned n v = true) : (BitVec.ofNat n v).toNat = v := by
  simp only [fitsUnsigned, decide_eq_true_eq] at h
  simp [Nat.mod_eq_of_lt h]

/-! ### Fields of a packet -/

variable (rc rb ra : Reg) (imm9 : BitVec 9) (imm6 : BitVec 6) (imm3 : BitVec 3) (op : BitVec 5)

@[simp] theorem packetSize_packI9 : packetSize (packI9 imm9 op) = 0 := by
  refine BitVec.eq_of_getLsbD_eq fun i hi => ?_
  simp only [packetSize, packI9, BitVec.getLsbD_extractLsb', BitVec.getLsbD_append]
  interval_cases i <;> simp

@[simp] theorem packetOpcode_packI9 : packetOpcode (packI9 imm9 op) = op := by
  refine BitVec.eq_of_getLsbD_eq fun i hi => ?_
  simp only [packetOpcode, packI9, BitVec.getLsbD_extractLsb', BitVec.getLsbD_append]
  interval_cases i <;> simp

@[simp] theorem packetOperand_packI9 : packetOperand (packI9 imm9 op) = imm9 := by
  refine BitVec.eq_of_getLsbD_eq fun i hi => ?_
  simp only [packetOperand, packI9, BitVec.getLsbD_extractLsb', BitVec.getLsbD_append]
  interval_cases i <;> simp

@[simp] theorem packetSize_packRI6 : packetSize (packRI6 rc imm6 op) = 0 := by
  refine BitVec.eq_of_getLsbD_eq fun i hi => ?_
  simp only [packetSize, packRI6, BitVec.getLsbD_extractLsb', BitVec.getLsbD_append]
  interval_cases i <;> simp

@[simp] theorem packetOpcode_packRI6 : packetOpcode (packRI6 rc imm6 op) = op := by
  refine BitVec.eq_of_getLsbD_eq fun i hi => ?_
  simp only [packetOpcode, packRI6, BitVec.getLsbD_extractLsb', BitVec.getLsbD_append]
  interval_cases i <;> simp

@[simp] theorem packetRc_packRI6 : packetRc (packRI6 rc imm6 op) = rc := by
  suffices h : (packRI6 rc imm6 op).extractLsb' 13 3 = rc.toBits by rw [packetRc, h, Reg.ofBits_toBits]
  refine BitVec.eq_of_getLsbD_eq fun i hi => ?_
  simp only [packRI6, BitVec.getLsbD_extractLsb', BitVec.getLsbD_append]
  interval_cases i <;> simp

@[simp] theorem packetImm6_packRI6 : packetImm6 (packRI6 rc imm6 op) = imm6 := by
  refine BitVec.eq_of_getLsbD_eq fun i hi => ?_
  simp only [packetImm6, packRI6, BitVec.getLsbD_extractLsb', BitVec.getLsbD_append]
  interval_cases i <;> simp

@[simp] theorem packetSize_packRRI3 : packetSize (packRRI3 rc rb imm3 op) = 0 := by
  refine BitVec.eq_of_getLsbD_eq fun i hi => ?_
  simp only [packetSize, packRRI3, BitVec.getLsbD_extractLsb', BitVec.getLsbD_append]
  interval_cases i <;> simp

@[simp] theorem packetOpcode_packRRI3 : packetOpcode (packRRI3 rc rb imm3 op) = op := by
  refine BitVec.eq_of_getLsbD_eq fun i hi => ?_
  simp only [packetOpcode, packRRI3, BitVec.getLsbD_extractLsb', BitVec.getLsbD_append]
  interval_cases i <;> simp

@[simp] theorem packetRc_packRRI3 : packetRc (packRRI3 rc rb imm3 op) = rc := by
  suffices h : (packRRI3 rc rb imm3 op).extractLsb' 13 3 = rc.toBits by rw [packetRc, h, Reg.ofBits_toBits]
  refine BitVec.eq_of_getLsbD_eq fun i hi => ?_
  simp only [packRRI3, BitVec.getLsbD_extractLsb', BitVec.getLsbD_append]
  interval_cases i <;> simp

@[simp] theorem packetRb_packRRI3 : packetRb (packRRI3 rc rb imm3 op) = rb := by
  suffices h : (packRRI3 rc rb imm3 op).extractLsb' 10 3 = rb.toBits by rw [packetRb, h, Reg.ofBits_toBits]
  refine BitVec.eq_of_getLsbD_eq fun i hi => ?_
  simp only [packRRI3, BitVec.getLsbD_extractLsb', BitVec.getLsbD_append]
  interval_cases i <;> simp

@[simp] theorem packetImm3_packRRI3 : packetImm3 (packRRI3 rc rb imm3 op) = imm3 := by
  refine BitVec.eq_of_getLsbD_eq fun i hi => ?_
  simp only [packetImm3, packRRI3, BitVec.getLsbD_extractLsb', BitVec.getLsbD_append]
  interval_cases i <;> simp

@[simp] theorem packetSize_packRRR : packetSize (packRRR rc rb ra op) = 0 := by
  refine BitVec.eq_of_getLsbD_eq fun i hi => ?_
  simp only [packetSize, packRRR, BitVec.getLsbD_extractLsb', BitVec.getLsbD_append]
  interval_cases i <;> simp

@[simp] theorem packetOpcode_packRRR : packetOpcode (packRRR rc rb ra op) = op := by
  refine BitVec.eq_of_getLsbD_eq fun i hi => ?_
  simp only [packetOpcode, packRRR, BitVec.getLsbD_extractLsb', BitVec.getLsbD_append]
  interval_cases i <;> simp

@[simp] theorem packetRc_packRRR : packetRc (packRRR rc rb ra op) = rc := by
  suffices h : (packRRR rc rb ra op).extractLsb' 13 3 = rc.toBits by rw [packetRc, h, Reg.ofBits_toBits]
  refine BitVec.eq_of_getLsbD_eq fun i hi => ?_
  simp only [packRRR, BitVec.getLsbD_extractLsb', BitVec.getLsbD_append]
  interval_cases i <;> simp

@[simp] theorem packetRb_packRRR : packetRb (packRRR rc rb ra op) = rb := by
  suffices h : (packRRR rc rb ra op).extractLsb' 10 3 = rb.toBits by rw [packetRb, h, Reg.ofBits_toBits]
  refine BitVec.eq_of_getLsbD_eq fun i hi => ?_
  simp only [packRRR, BitVec.getLsbD_extractLsb', BitVec.getLsbD_append]
  interval_cases i <;> simp

@[simp] theorem packetRa_packRRR : packetRa (packRRR rc rb ra op) = ra := by
  suffices h : (packRRR rc rb ra op).extractLsb' 7 3 = ra.toBits by rw [packetRa, h, Reg.ofBits_toBits]
  refine BitVec.eq_of_getLsbD_eq fun i hi => ?_
  simp only [packRRR, BitVec.getLsbD_extractLsb', BitVec.getLsbD_append]
  interval_cases i <;> simp

@[simp] theorem packetSize_packHead (rest : BitVec 14) (sz : BitVec 2) : packetSize (packHead rest sz) = sz := by
  refine BitVec.eq_of_getLsbD_eq fun i hi => ?_
  simp only [packetSize, packHead, BitVec.getLsbD_extractLsb', BitVec.getLsbD_append]
  interval_cases i <;> simp

@[simp] theorem packetRest_packHead (rest : BitVec 14) (sz : BitVec 2) : packetRest (packHead rest sz) = rest := by
  refine BitVec.eq_of_getLsbD_eq fun i hi => ?_
  simp only [packetRest, packHead, BitVec.getLsbD_extractLsb', BitVec.getLsbD_append]
  interval_cases i <;> simp

/-! ### The number a packet is -/

theorem toNat_append_eq {n m : Nat} (x : BitVec n) (y : BitVec m) : (x ++ y).toNat = x.toNat * 2 ^ m + y.toNat := by
  rw [BitVec.toNat_append, Nat.shiftLeft_eq, Nat.mul_comm, Nat.two_pow_add_eq_or_of_lt y.isLt]

theorem packI9_toNat : (packI9 imm9 op).toNat = imm9.toNat * 128 + op.toNat * 4 := by
  simp only [packI9, toNat_append_eq, BitVec.toNat_ofNat]
  omega

theorem packRI6_toNat :
    (packRI6 rc imm6 op).toNat = rc.toBits.toNat * 8192 + imm6.toNat * 128 + op.toNat * 4 := by
  simp only [packRI6, toNat_append_eq, BitVec.toNat_ofNat]
  omega

theorem packRRI3_toNat :
    (packRRI3 rc rb imm3 op).toNat =
      rc.toBits.toNat * 8192 + rb.toBits.toNat * 1024 + imm3.toNat * 128 + op.toNat * 4 := by
  simp only [packRRI3, toNat_append_eq, BitVec.toNat_ofNat]
  omega

theorem packRRR_toNat :
    (packRRR rc rb ra op).toNat =
      rc.toBits.toNat * 8192 + rb.toBits.toNat * 1024 + ra.toBits.toNat * 128 + op.toNat * 4 := by
  simp only [packRRR, toNat_append_eq, BitVec.toNat_ofNat]
  omega

/-! ### The bits under a row's mask -/

theorem packI9_and_mask : packI9 imm9 op &&& 0x007F#16 = (op ++ 0b00#2).setWidth 16 := by
  refine BitVec.eq_of_getLsbD_eq fun i hi => ?_
  simp only [packI9, BitVec.getLsbD_and, BitVec.getLsbD_append, BitVec.getLsbD_setWidth]
  interval_cases i <;> simp

theorem packRI6_and_mask : packRI6 rc imm6 op &&& 0x007F#16 = (op ++ 0b00#2).setWidth 16 := by
  refine BitVec.eq_of_getLsbD_eq fun i hi => ?_
  simp only [packRI6, BitVec.getLsbD_and, BitVec.getLsbD_append, BitVec.getLsbD_setWidth]
  interval_cases i <;> simp

theorem packRRR_and_mask : packRRR rc rb ra op &&& 0x007F#16 = (op ++ 0b00#2).setWidth 16 := by
  refine BitVec.eq_of_getLsbD_eq fun i hi => ?_
  simp only [packRRR, BitVec.getLsbD_and, BitVec.getLsbD_append, BitVec.getLsbD_setWidth]
  interval_cases i <;> simp

theorem packRRI3_and_mask : packRRI3 rc rb imm3 op &&& 0x007F#16 = (op ++ 0b00#2).setWidth 16 := by
  refine BitVec.eq_of_getLsbD_eq fun i hi => ?_
  simp only [packRRI3, BitVec.getLsbD_and, BitVec.getLsbD_append, BitVec.getLsbD_setWidth]
  interval_cases i <;> simp

theorem packRRI3_and_selector_mask :
    packRRI3 rc rb imm3 op &&& 0x03FF#16 = (imm3 ++ op ++ 0b00#2).setWidth 16 := by
  refine BitVec.eq_of_getLsbD_eq fun i hi => ?_
  simp only [packRRI3, BitVec.getLsbD_and, BitVec.getLsbD_append, BitVec.getLsbD_setWidth]
  interval_cases i <;> simp

theorem packHead_and_mask (rest : BitVec 14) (sz : BitVec 2) : packHead rest sz &&& 0x0003#16 = sz.setWidth 16 := by
  refine BitVec.eq_of_getLsbD_eq fun i hi => ?_
  simp only [packHead, BitVec.getLsbD_and, BitVec.getLsbD_append, BitVec.getLsbD_setWidth]
  interval_cases i <;> simp

end Sys2Proof
end

