-- ==== Sys2Proof/Laws/Ops.lean ====
section
/-! SUPPORT. What each shared operation can do, said once: when it answers, and with what. -/

namespace Sys2Proof.Machine

/-! ### `andThen` -/

@[simp] theorem andThen_of_next {α β : Type} (a : α) (f : α → Result β) : andThen (.next a) f = f a := rfl

@[simp] theorem andThen_of_fault {α β : Type} (r : Fault) (f : α → Result β) : andThen (.fault r) f = .fault r := rfl

@[simp] theorem andThen_of_refused {α β : Type} (r : Refusal) (f : α → Result β) :
    andThen (.refused r) f = .refused r := rfl

/-- An answer of `andThen` comes from an answer of each part. -/
theorem andThen_eq_next {α β : Type} {x : Result α} {f : α → Result β} {b : β} :
    andThen x f = .next b ↔ ∃ a, x = .next a ∧ f a = .next b := by
  cases x <;> simp [andThen]

/-- A check followed by an answer. -/
theorem andThen_unit_eq_next {β : Type} {x : Result Unit} {c v : β} :
    andThen x (fun _ => .next c) = .next v ↔ x = .next () ∧ v = c := by
  cases x <;> simp [andThen, @eq_comm _ v]

/-! ### The checks -/

theorem MemoryMap.admitsRead_iff (m : MemoryMap) (a : Word) (n : Nat) :
    m.admitsRead a n = true ↔ m.allReadable a n = true ∧ m.anyDevice a n = false := by
  simp [MemoryMap.admitsRead]

theorem MemoryMap.admitsWrite_iff (m : MemoryMap) (a : Word) (n : Nat) :
    m.admitsWrite a n = true ↔
      m.anyCodeOrConst a n = false ∧ m.allWritable a n = true ∧ m.anyDevice a n = false := by
  simp [MemoryMap.admitsWrite, and_assoc]

/-- A read passes its checks exactly where MEMORY_MAP admits it as memory. -/
theorem checkRead_eq_next {kind : AccessKind} {s : State} {a : Word} {n : Nat} :
    checkRead kind s a n = .next () ↔ s.params.memoryMap.admitsRead a n = true := by
  rw [MemoryMap.admitsRead_iff, checkRead]
  split
  · split <;> simp_all
  · simp_all

/-- A write passes its checks exactly where MEMORY_MAP admits it as memory. -/
theorem checkWrite_eq_next {s : State} {a : Word} {n : Nat} :
    checkWrite s a n = .next () ↔ s.params.memoryMap.admitsWrite a n = true := by
  rw [MemoryMap.admitsWrite_iff, checkWrite]
  split
  · simp_all
  · split
    · split <;> simp_all
    · simp_all

/-- A constant read passes its checks exactly where the constant may be read. -/
theorem checkConst_eq_next {s : State} {a : Word} {n : Nat} :
    checkConst s a n = .next () ↔ s.constReadable a n := by
  unfold checkConst State.constReadable
  split
  · simp_all [checkRead_eq_next]
  · simp_all

/-! ### The accesses -/

/-- A 64-bit constant read answers exactly where it may, with the eight bytes there. -/
theorem readConst64_eq_next {s : State} {a v : Word} :
    readConst64 s a = .next v ↔ s.constReadable a 8 ∧ v = s.mem.read64 a := by
  rw [readConst64, andThen_unit_eq_next, checkConst_eq_next]

/-- A 32-bit constant read answers exactly where it may, with the four bytes there. -/
theorem readConst32_eq_next {s : State} {a : Word} {v : BitVec 32} :
    readConst32 s a = .next v ↔ s.constReadable a 4 ∧ v = s.mem.read32 a := by
  rw [readConst32, andThen_unit_eq_next, checkConst_eq_next]

/-- A load answers exactly where it may, with the eight bytes there. -/
theorem loadData_eq_next {s : State} {a v : Word} :
    loadData s a = .next v ↔ s.loadable a ∧ v = s.mem.read64 a := by
  unfold loadData State.loadable
  split
  · simp_all [andThen_unit_eq_next, checkRead_eq_next]
  · simp_all

/-- A store answers exactly where it may, with the eight bytes written and nothing else changed. -/
theorem storeData_eq_next {s t : State} {a v : Word} :
    storeData s a v = .next t ↔ s.storable a ∧ t = s.setMem (s.mem.write64 a v) := by
  unfold storeData State.storable
  split
  · simp_all [andThen_unit_eq_next, checkWrite_eq_next]
  · simp_all

/-- The fetch answers exactly where `pc` is even and the read admitted, with the two bytes there. -/
theorem fetch_eq_next {s : State} {w : Packet} :
    fetch s = .next w ↔
      isAligned s.pc 2 = true ∧ s.params.memoryMap.admitsRead s.pc 2 = true ∧ w = s.mem.read16 s.pc := by
  unfold fetch
  split
  · simp_all [andThen_unit_eq_next, checkRead_eq_next]
  · simp_all

/-- `(pc, ib)` is set exactly where both are aligned. -/
theorem jumpPair_eq_next {p b : Word} {s t : State} :
    jumpPair p b s = .next t ↔ isAligned p 2 = true ∧ isAligned b 64 = true ∧ t = (s.setPc p).setIb b := by
  unfold jumpPair
  split
  · simp_all [@eq_comm _ t]
  · simp_all

/-- A write-back always answers. -/
theorem writeBack_eq_next {rc : Reg} {v : Word} {s t : State} :
    writeBack rc v s = .next t ↔ t = (s.setReg rc v).advance := by
  simp [writeBack, @eq_comm _ t]

end Sys2Proof.Machine
end

