-- ==== Sys2Proof/Laws/State.lean ====
section
/-! SUPPORT. One lemma per field per update of the state, and the register file's read-after-write laws. -/

namespace Sys2Proof.Machine

variable (s : State)

/-! ### `setReg` -/

@[simp] theorem State.regs_setReg (r : Reg) (v : Word) : (s.setReg r v).regs = s.regs.write r v := rfl
@[simp] theorem State.pc_setReg (r : Reg) (v : Word) : (s.setReg r v).pc = s.pc := rfl
@[simp] theorem State.ib_setReg (r : Reg) (v : Word) : (s.setReg r v).ib = s.ib := rfl
@[simp] theorem State.flag_setReg (r : Reg) (v : Word) : (s.setReg r v).flag = s.flag := rfl
@[simp] theorem State.tpc_setReg (r : Reg) (v : Word) : (s.setReg r v).tpc = s.tpc := rfl
@[simp] theorem State.tcause_setReg (r : Reg) (v : Word) : (s.setReg r v).tcause = s.tcause := rfl
@[simp] theorem State.mem_setReg (r : Reg) (v : Word) : (s.setReg r v).mem = s.mem := rfl
@[simp] theorem State.lastTrap_setReg (r : Reg) (v : Word) : (s.setReg r v).lastTrap = s.lastTrap := rfl
@[simp] theorem State.params_setReg (r : Reg) (v : Word) : (s.setReg r v).params = s.params := rfl

/-! ### `setPc` -/

@[simp] theorem State.regs_setPc (p : Word) : (s.setPc p).regs = s.regs := rfl
@[simp] theorem State.pc_setPc (p : Word) : (s.setPc p).pc = p := rfl
@[simp] theorem State.ib_setPc (p : Word) : (s.setPc p).ib = s.ib := rfl
@[simp] theorem State.flag_setPc (p : Word) : (s.setPc p).flag = s.flag := rfl
@[simp] theorem State.tpc_setPc (p : Word) : (s.setPc p).tpc = s.tpc := rfl
@[simp] theorem State.tcause_setPc (p : Word) : (s.setPc p).tcause = s.tcause := rfl
@[simp] theorem State.mem_setPc (p : Word) : (s.setPc p).mem = s.mem := rfl
@[simp] theorem State.lastTrap_setPc (p : Word) : (s.setPc p).lastTrap = s.lastTrap := rfl
@[simp] theorem State.params_setPc (p : Word) : (s.setPc p).params = s.params := rfl

/-! ### `setIb` -/

@[simp] theorem State.regs_setIb (v : Word) : (s.setIb v).regs = s.regs := rfl
@[simp] theorem State.pc_setIb (v : Word) : (s.setIb v).pc = s.pc := rfl
@[simp] theorem State.ib_setIb (v : Word) : (s.setIb v).ib = v := rfl
@[simp] theorem State.flag_setIb (v : Word) : (s.setIb v).flag = s.flag := rfl
@[simp] theorem State.tpc_setIb (v : Word) : (s.setIb v).tpc = s.tpc := rfl
@[simp] theorem State.tcause_setIb (v : Word) : (s.setIb v).tcause = s.tcause := rfl
@[simp] theorem State.mem_setIb (v : Word) : (s.setIb v).mem = s.mem := rfl
@[simp] theorem State.lastTrap_setIb (v : Word) : (s.setIb v).lastTrap = s.lastTrap := rfl
@[simp] theorem State.params_setIb (v : Word) : (s.setIb v).params = s.params := rfl

/-! ### `setFlag` -/

@[simp] theorem State.regs_setFlag (v : Bool) : (s.setFlag v).regs = s.regs := rfl
@[simp] theorem State.pc_setFlag (v : Bool) : (s.setFlag v).pc = s.pc := rfl
@[simp] theorem State.ib_setFlag (v : Bool) : (s.setFlag v).ib = s.ib := rfl
@[simp] theorem State.flag_setFlag (v : Bool) : (s.setFlag v).flag = v := rfl
@[simp] theorem State.tpc_setFlag (v : Bool) : (s.setFlag v).tpc = s.tpc := rfl
@[simp] theorem State.tcause_setFlag (v : Bool) : (s.setFlag v).tcause = s.tcause := rfl
@[simp] theorem State.mem_setFlag (v : Bool) : (s.setFlag v).mem = s.mem := rfl
@[simp] theorem State.lastTrap_setFlag (v : Bool) : (s.setFlag v).lastTrap = s.lastTrap := rfl
@[simp] theorem State.params_setFlag (v : Bool) : (s.setFlag v).params = s.params := rfl

/-! ### `setMem` -/

@[simp] theorem State.regs_setMem (m : Memory) : (s.setMem m).regs = s.regs := rfl
@[simp] theorem State.pc_setMem (m : Memory) : (s.setMem m).pc = s.pc := rfl
@[simp] theorem State.ib_setMem (m : Memory) : (s.setMem m).ib = s.ib := rfl
@[simp] theorem State.flag_setMem (m : Memory) : (s.setMem m).flag = s.flag := rfl
@[simp] theorem State.tpc_setMem (m : Memory) : (s.setMem m).tpc = s.tpc := rfl
@[simp] theorem State.tcause_setMem (m : Memory) : (s.setMem m).tcause = s.tcause := rfl
@[simp] theorem State.mem_setMem (m : Memory) : (s.setMem m).mem = m := rfl
@[simp] theorem State.lastTrap_setMem (m : Memory) : (s.setMem m).lastTrap = s.lastTrap := rfl
@[simp] theorem State.params_setMem (m : Memory) : (s.setMem m).params = s.params := rfl

/-! ### `advance` -/

@[simp] theorem State.regs_advance : (s.advance).regs = s.regs := rfl
@[simp] theorem State.pc_advance : (s.advance).pc = s.pc + 2 := rfl
@[simp] theorem State.ib_advance : (s.advance).ib = s.ib := rfl
@[simp] theorem State.flag_advance : (s.advance).flag = s.flag := rfl
@[simp] theorem State.tpc_advance : (s.advance).tpc = s.tpc := rfl
@[simp] theorem State.tcause_advance : (s.advance).tcause = s.tcause := rfl
@[simp] theorem State.mem_advance : (s.advance).mem = s.mem := rfl
@[simp] theorem State.lastTrap_advance : (s.advance).lastTrap = s.lastTrap := rfl
@[simp] theorem State.params_advance : (s.advance).params = s.params := rfl

/-! ### `takeTrap` -/

@[simp] theorem State.regs_takeTrap (e : Trap) : (takeTrap e s).regs = s.regs := rfl
@[simp] theorem State.pc_takeTrap (e : Trap) : (takeTrap e s).pc = Config.trapVector := rfl
@[simp] theorem State.ib_takeTrap (e : Trap) : (takeTrap e s).ib = s.ib := rfl
@[simp] theorem State.flag_takeTrap (e : Trap) : (takeTrap e s).flag = s.flag := rfl
@[simp] theorem State.tpc_takeTrap (e : Trap) : (takeTrap e s).tpc = s.pc := rfl
@[simp] theorem State.tcause_takeTrap (e : Trap) : (takeTrap e s).tcause = e.cause := rfl
@[simp] theorem State.mem_takeTrap (e : Trap) : (takeTrap e s).mem = s.mem := rfl
@[simp] theorem State.lastTrap_takeTrap (e : Trap) : (takeTrap e s).lastTrap = some e := rfl
@[simp] theorem State.params_takeTrap (e : Trap) : (takeTrap e s).params = s.params := rfl

/-! ### Reading a register after an update -/

theorem RegFile.read_write_same (f : RegFile) (r : Reg) (v : Word) : (f.write r v).read r = v := by
  cases r <;> rfl

theorem RegFile.read_write_other (f : RegFile) {r r' : Reg} (v : Word) (h : r' ≠ r) :
    (f.write r v).read r' = f.read r' := by
  cases r <;> cases r' <;> first | rfl | exact absurd rfl h

@[simp] theorem State.reg_setReg_same (r : Reg) (v : Word) : (s.setReg r v).reg r = v :=
  RegFile.read_write_same _ r v

theorem State.reg_setReg_other {r r' : Reg} (v : Word) (h : r' ≠ r) : (s.setReg r v).reg r' = s.reg r' :=
  RegFile.read_write_other _ v h

@[simp] theorem State.reg_setPc (p : Word) (r : Reg) : (s.setPc p).reg r = s.reg r := rfl
@[simp] theorem State.reg_setIb (v : Word) (r : Reg) : (s.setIb v).reg r = s.reg r := rfl
@[simp] theorem State.reg_setFlag (v : Bool) (r : Reg) : (s.setFlag v).reg r = s.reg r := rfl
@[simp] theorem State.reg_setMem (m : Memory) (r : Reg) : (s.setMem m).reg r = s.reg r := rfl
@[simp] theorem State.reg_advance (r : Reg) : (s.advance).reg r = s.reg r := rfl
@[simp] theorem State.reg_takeTrap (e : Trap) (r : Reg) : (takeTrap e s).reg r = s.reg r := rfl

end Sys2Proof.Machine
end

