-- ==== Sys2Proof/Laws/Exec.lean ====
section
/-! SUPPORT. Said once: the frames of the shared ways an instruction ends, and everything `exec` can do when it
answers a next state. -/

namespace Sys2Proof.Machine

/-! ### Frames of the shared operations -/

theorem setReg_advance_onlyReg (s : State) (rc : Reg) (v : Word) : OnlyReg rc s (s.setReg rc v).advance :=
  ⟨fun _ h => s.reg_setReg_other v h, rfl, rfl, fun _ => rfl, ⟨rfl, rfl, rfl, rfl⟩⟩

theorem setFlag_advance_onlyFlag (s : State) (v : Bool) : OnlyFlag s (s.setFlag v).advance :=
  ⟨fun _ => rfl, rfl, fun _ => rfl, ⟨rfl, rfl, rfl, rfl⟩⟩

theorem setPc_onlyPc (s : State) (p : Word) : OnlyPc s (s.setPc p) :=
  ⟨fun _ => rfl, rfl, rfl, fun _ => rfl, ⟨rfl, rfl, rfl, rfl⟩⟩

theorem setPc_setIb_onlyPcIb (s : State) (p b : Word) : OnlyPcIb s ((s.setPc p).setIb b) :=
  ⟨fun _ => rfl, rfl, fun _ => rfl, ⟨rfl, rfl, rfl, rfl⟩⟩

theorem takeTrap_trapped (e : Trap) (s : State) : Trapped e s (takeTrap e s) :=
  ⟨rfl, rfl, rfl, rfl, fun _ => rfl, rfl, rfl, fun _ => rfl, rfl⟩

/-- A write-back answers, and whatever holds of the value written holds of the register afterwards. -/
theorem writeBack_completes {s : State} {rc : Reg} {v : Word} {P : Word → Prop} (h : P v) :
    ∃ t, writeBack rc v s = .next t ∧ P (t.reg rc) ∧ t.pc = s.pc + 2 ∧ OnlyReg rc s t :=
  ⟨_, rfl, by rwa [State.reg_advance, State.reg_setReg_same], rfl, setReg_advance_onlyReg s rc v⟩

/-- A comparison answers, and `flag` is the relation of its operands. -/
theorem compareWith_completes {s : State} {rc rb : Reg} {rel : Word → Word → Bool} {P : Prop}
    (h : rel (s.reg rc) (s.reg rb) = true ↔ P) :
    ∃ t, compareWith rel rc rb s = .next t ∧ (t.flag = true ↔ P) ∧ t.pc = s.pc + 2 ∧ OnlyFlag s t :=
  ⟨_, rfl, h, rfl, setFlag_advance_onlyFlag s _⟩

/-! ### What `exec` can do -/

/-- The ways an instruction can end in a next state. -/
inductive Effect (i : Instr) (s : State) : State → Prop where
  | wrote (rc : Reg) (v : Word) (h : destinationOf i = some rc) : Effect i s (s.setReg rc v).advance
  | trapped (e : Trap)
      (h : (∃ u, i = .brk u) ∨ (∃ u, i = .illegal u) ∨ ∃ rc rb ra, i = .div rc rb ra) : Effect i s (takeTrap e s)
  | moved (p : Word) (h : (∃ d, p = branchTarget s d) ∨ p = s.pc + 2) : Effect i s (s.setPc p)
  | blockMoved (d : Int) (h : i = .ibj d) : Effect i s (s.setIb (blockTarget s d)).advance
  | linked (rc : Reg) (u : Nat) (p b v : Word) (h : i = .jalib rc u) (hp : isAligned p 2 = true)
      (hb : isAligned b 64 = true) : Effect i s (((s.setPc p).setIb b).setReg rc v)
  | returned (rc : Reg) (u : Nat) (p b : Word) (h : i = .jtlib rc u) (hp : isAligned p 2 = true)
      (hb : isAligned b 64 = true) : Effect i s ((s.setPc p).setIb b)
  | stored (a v : Word) (h : (∃ rc rb u, i = .store rc rb u) ∨ ∃ rc u, i = .storepc rc u) :
      Effect i s (s.setMem (s.mem.write64 a v)).advance
  | compared (rc rb : Reg) (v : Bool)
      (h : i = .compareLt rc rb ∨ i = .compareGe rc rb ∨ i = .compareEq rc rb ∨ i = .compareNe rc rb ∨
        i = .compareLtu rc rb ∨ i = .compareGeu rc rb) : Effect i s (s.setFlag v).advance

theorem writeBack_effect {i : Instr} {s t : State} {rc : Reg} {v : Word} (hi : destinationOf i = some rc)
    (h : writeBack rc v s = .next t) : Effect i s t :=
  writeBack_eq_next.mp h ▸ .wrote rc v hi

theorem andThen_writeBack_effect {α : Type} {i : Instr} {s t : State} {rc : Reg} {x : Result α} {f : α → Word}
    (hi : destinationOf i = some rc) (h : andThen x (fun c => writeBack rc (f c) s) = .next t) : Effect i s t := by
  obtain ⟨c, -, h⟩ := andThen_eq_next.mp h
  exact writeBack_effect hi h

theorem execJalib_effect {rc : Reg} {u : Nat} {s t : State} (h : execJalib rc u s = .next t) :
    Effect (.jalib rc u) s t := by
  obtain ⟨v, -, h⟩ := andThen_eq_next.mp h
  obtain ⟨w, hw, h⟩ := andThen_eq_next.mp h
  obtain ⟨hp, hb, rfl⟩ := jumpPair_eq_next.mp hw
  cases h
  exact .linked rc u _ _ v rfl hp hb

theorem execJtlib_effect {rc : Reg} {u : Nat} {s t : State} (h : execJtlib rc u s = .next t) :
    Effect (.jtlib rc u) s t := by
  obtain ⟨c, -, h⟩ := andThen_eq_next.mp h
  obtain ⟨hp, hb, rfl⟩ := jumpPair_eq_next.mp h
  exact .returned rc u _ _ rfl hp hb

theorem storeData_effect {i : Instr} {s t : State} {a v : Word}
    (hi : (∃ rc rb u, i = .store rc rb u) ∨ ∃ rc u, i = .storepc rc u)
    (h : andThen (storeData s a v) (fun t => .next t.advance) = .next t) : Effect i s t := by
  obtain ⟨w, hw, h⟩ := andThen_eq_next.mp h
  obtain ⟨-, rfl⟩ := storeData_eq_next.mp hw
  cases h
  exact .stored a v hi

theorem execLoadpc_effect {rc : Reg} {u : Nat} {s t : State} (h : execLoadpc rc u s = .next t) :
    Effect (.loadpc rc u) s t := by
  obtain ⟨c, -, h⟩ := andThen_eq_next.mp h
  exact andThen_writeBack_effect (f := id) rfl h

theorem execStorepc_effect {rc : Reg} {u : Nat} {s t : State} (h : execStorepc rc u s = .next t) :
    Effect (.storepc rc u) s t := by
  obtain ⟨c, -, h⟩ := andThen_eq_next.mp h
  exact storeData_effect (.inr ⟨rc, u, rfl⟩) h

theorem execB_effect {d : Int} {s t : State} (h : execB d s = .next t) : Effect (.b d) s t := by
  rw [execB] at h
  cases hf : s.flag <;> simp only [hf] at h <;> cases h
  · exact .moved _ (.inr rfl)
  · exact .moved _ (.inl ⟨d, rfl⟩)

theorem execCompareMov_effect {rc rb : Reg} {s t : State} (h : execCompareMov rc rb s = .next t) :
    Effect (.compareMov rc rb) s t := by
  rw [execCompareMov] at h
  cases hf : s.flag <;> simp only [hf] at h <;> cases h
  · exact .moved _ (.inr rfl)
  · exact .wrote rc _ rfl

theorem execDiv_effect {rc rb ra : Reg} {s t : State} (h : execDiv rc rb ra s = .next t) :
    Effect (.div rc rb ra) s t := by
  have hd : (∃ u, Instr.div rc rb ra = .brk u) ∨ (∃ u, Instr.div rc rb ra = .illegal u) ∨
      ∃ rc' rb' ra', Instr.div rc rb ra = .div rc' rb' ra' := .inr (.inr ⟨rc, rb, ra, rfl⟩)
  rw [execDiv] at h
  split at h
  · cases h
    exact .trapped _ hd
  · split at h
    · split at h
      · exact writeBack_effect rfl h
      · cases h
        exact .trapped _ hd
    · exact writeBack_effect rfl h

/-- Everything `exec` can do when it answers a next state. -/
theorem exec_effect {i : Instr} {s t : State} (h : exec i s = .next t) : Effect i s t := by
  cases i with
  | brk u => cases h; exact .trapped _ (.inl ⟨u, rfl⟩)
  | j d => cases h; exact .moved _ (.inl ⟨d, rfl⟩)
  | b d => exact execB_effect h
  | ibj d => cases h; exact .blockMoved d rfl
  | jalib rc u => exact execJalib_effect h
  | jtlib rc u => exact execJtlib_effect h
  | movib rc u => exact andThen_writeBack_effect (f := id) rfl h
  | movi rc d => exact writeBack_effect rfl h
  | addi rc d => exact writeBack_effect rfl h
  | srli rc u => exact writeBack_effect rfl h
  | srai rc u => exact writeBack_effect rfl h
  | slli rc u => exact writeBack_effect rfl h
  | addib rc u => exact andThen_writeBack_effect (f := fun c : BitVec 32 => s.reg rc + c.signExtend 64) rfl h
  | leapc rc u => exact andThen_writeBack_effect (f := pcRelAddr s) rfl h
  | loadpc rc u => exact execLoadpc_effect h
  | storepc rc u => exact execStorepc_effect h
  | load rc rb u => exact andThen_writeBack_effect (f := id) rfl h
  | store rc rb u => exact storeData_effect (.inl ⟨rc, rb, u, rfl⟩) h
  | compareLt rc rb => cases h; exact .compared rc rb _ (.inl rfl)
  | compareGe rc rb => cases h; exact .compared rc rb _ (.inr (.inl rfl))
  | compareEq rc rb => cases h; exact .compared rc rb _ (.inr (.inr (.inl rfl)))
  | compareNe rc rb => cases h; exact .compared rc rb _ (.inr (.inr (.inr (.inl rfl))))
  | compareLtu rc rb => cases h; exact .compared rc rb _ (.inr (.inr (.inr (.inr (.inl rfl)))))
  | compareGeu rc rb => cases h; exact .compared rc rb _ (.inr (.inr (.inr (.inr (.inr rfl)))))
  | compareMov rc rb => exact execCompareMov_effect h
  | compareReserved rc rb => cases h
  | logicMov rc rb => exact writeBack_effect rfl h
  | logicNot rc rb => exact writeBack_effect rfl h
  | logicNeg rc rb => exact writeBack_effect rfl h
  | logicBswap rc rb => exact writeBack_effect rfl h
  | logicCtz rc rb => exact writeBack_effect rfl h
  | logicClz rc rb => exact writeBack_effect rfl h
  | logicCtpop rc rb => exact writeBack_effect rfl h
  | logicSext rc rb => exact writeBack_effect rfl h
  | pin rc rb ra => exact writeBack_effect rfl h
  | and rc rb ra => exact writeBack_effect rfl h
  | or rc rb ra => exact writeBack_effect rfl h
  | xor rc rb ra => exact writeBack_effect rfl h
  | add rc rb ra => exact writeBack_effect rfl h
  | srl rc rb ra => exact writeBack_effect rfl h
  | sra rc rb ra => exact writeBack_effect rfl h
  | sll rc rb ra => exact writeBack_effect rfl h
  | sub rc rb ra => exact writeBack_effect rfl h
  | mul rc rb ra => exact writeBack_effect rfl h
  | div rc rb ra => exact execDiv_effect h
  | illegal u => cases h; exact .trapped _ (.inr (.inl ⟨u, rfl⟩))
  | reserved32 n => cases h
  | reserved64 n => cases h
  | reserved128 n => cases h

/-- A step that answers a next state is `exec` of an instruction. -/
theorem exec_of_step {s t : State} (h : step s = .next t) : ∃ i, exec i s = .next t := by
  obtain ⟨w, -, h⟩ := andThen_eq_next.mp h
  exact ⟨_, h⟩

end Sys2Proof.Machine
end

