-- ==== Sys2Proof/Laws/Link.lean ====
section
/-! SUPPORT. The laws of link vectors (spec/10_state.md R31): the elements of a packed vector, a vector from its
elements, and when a distance survives the cut to 32 bits (spec/41_link_vector.md R132, R135). -/

namespace Sys2Proof.Machine

theorem vecPc_toNat (v : Word) : (vecPc v).toNat = v.toNat % 2 ^ 32 := by simp [vecPc]

theorem vecIb_toNat (v : Word) : (vecIb v).toNat = v.toNat / 2 ^ 32 := by
  have h := v.isLt
  simp only [vecIb, BitVec.extractLsb'_toNat, Nat.shiftRight_eq_div_pow]
  omega

theorem linkVector_toNat (rpc rib : BitVec 32) : (linkVector rpc rib).toNat = rib.toNat * 2 ^ 32 + rpc.toNat :=
  toNat_append_eq rib rpc

@[simp] theorem vecPc_linkVector (rpc rib : BitVec 32) : vecPc (linkVector rpc rib) = rpc := by
  refine BitVec.eq_of_toNat_eq ?_
  have h := rpc.isLt
  rw [vecPc_toNat, linkVector_toNat]
  omega

@[simp] theorem vecIb_linkVector (rpc rib : BitVec 32) : vecIb (linkVector rpc rib) = rib := by
  refine BitVec.eq_of_toNat_eq ?_
  have h := rpc.isLt
  rw [vecIb_toNat, linkVector_toNat]
  omega

/-- A link vector is the vector of its two elements. -/
theorem linkVector_vecPc_vecIb (v : Word) : linkVector (vecPc v) (vecIb v) = v := by
  refine BitVec.eq_of_toNat_eq ?_
  rw [linkVector_toNat, vecPc_toNat, vecIb_toNat]
  omega

/-! ### Distances of 32 bits -/

theorem setWidth_signExtend_of_32 (c : BitVec 32) : (c.signExtend 64).setWidth 32 = c := by
  refine BitVec.eq_of_getLsbD_eq fun i hi => ?_
  simp only [BitVec.getLsbD_setWidth, BitVec.getLsbD_signExtend, hi, decide_true, Bool.true_and, if_true]
  rw [decide_eq_true (by omega), Bool.true_and]

theorem setWidth32_add (x y : Word) : (x + y).setWidth 32 = x.setWidth 32 + y.setWidth 32 :=
  BitVec.eq_of_toNat_eq (by simp)

theorem setWidth32_sub (x y : Word) : (x - y).setWidth 32 = x.setWidth 32 - y.setWidth 32 := by
  refine BitVec.eq_of_toNat_eq ?_
  simp only [BitVec.toNat_setWidth, BitVec.toNat_sub]
  omega

/-- A distance that 32 bits signed hold is not changed by cutting it to 32 bits and extending it again. -/
theorem signExtend_setWidth_of_fits32 {d : Word} (h : Fits32 d) : (d.setWidth 32).signExtend 64 = d := by
  obtain ⟨h1, h2⟩ := h
  have hd : ((d.toNat : Int)).bmod (2 ^ 32) = d.toInt.bmod (2 ^ 32) := by
    rw [BitVec.toInt_eq_toNat_bmod, Int.bmod_bmod_of_dvd]
    norm_num
  rw [← BitVec.toInt_inj, BitVec.toInt_signExtend_of_le (by norm_num), BitVec.toInt_setWidth, hd]
  apply Int.bmod_eq_of_le <;> push_cast <;> omega

/-- An address plus a sign-extended 32-bit constant, as an integer modulo 2^64. -/
theorem toNat_add_signExtend (x : Word) (c : BitVec 32) :
    ((x + c.signExtend 64).toNat : Int) = (x.toNat + c.toInt) % 2 ^ 64 := by
  rw [BitVec.signExtend, BitVec.toNat_add, BitVec.toNat_ofInt]
  push_cast
  rw [Int.toNat_of_nonneg (Int.emod_nonneg _ (by norm_num))]
  omega

end Sys2Proof.Machine
end

