-- ==== Sys2Proof/Laws/Memory.lean ====
section
/-! SUPPORT. The laws of memory: the canonical form is kept by every operation, a write is read back, and a write
leaves every other byte as it was. -/

namespace Sys2Proof.Machine

/-! ### The canonical form -/

theorem Memory.wf_cons {a : Nat} {b : Byte} {m : Memory} :
    Memory.wf ((a, b) :: m) = true ↔
      a < 2 ^ 64 ∧ b ≠ Memory.unlisted ∧ (∀ c ∈ m, a < c.1) ∧ Memory.wf m = true := by
  simp [Memory.wf, and_assoc]

/-- An entry of a written memory is an old entry or the written one. -/
theorem Memory.mem_write {m : Memory} {a : Nat} {v : Byte} {c : Host.Cell} (h : c ∈ m.write a v) :
    c ∈ m ∨ c.1 = a := by
  induction m with
  | nil =>
    simp only [Memory.write] at h
    split at h <;> simp_all
  | cons d m ih =>
    obtain ⟨b, w⟩ := d
    simp only [Memory.write] at h
    simp only [List.mem_cons]
    split_ifs at h <;> (try simp only [List.mem_cons] at h)
    · exact .inl h
    · rcases h with rfl | h
      · exact .inr rfl
      · exact .inl h
    · exact .inl (.inr h)
    · rcases h with rfl | h
      · exact .inr rfl
      · exact .inl (.inr h)
    · rcases h with h | h
      · exact .inl (.inl h)
      · exact (ih h).imp .inr id

/-- A write below 2^64 keeps the canonical form. -/
theorem Memory.write_wf {m : Memory} {a : Nat} (v : Byte) (hm : m.wf = true) (ha : a < 2 ^ 64) :
    (m.write a v).wf = true := by
  induction m with
  | nil =>
    simp only [Memory.write]
    split
    · rfl
    · simp_all [Memory.wf]
  | cons d m ih =>
    obtain ⟨b, w⟩ := d
    obtain ⟨hb, hw, hlt, hm'⟩ := Memory.wf_cons.mp hm
    simp only [Memory.write]
    split_ifs with h1 h2 h3 h4
    · exact hm
    · refine Memory.wf_cons.mpr ⟨ha, h2, ?_, hm⟩
      intro c hc
      rcases List.mem_cons.mp hc with rfl | hc
      · exact h1
      · exact lt_trans h1 (hlt c hc)
    · exact hm'
    · exact Memory.wf_cons.mpr ⟨ha, h4, fun c hc => h3 ▸ hlt c hc, hm'⟩
    · refine Memory.wf_cons.mpr ⟨hb, hw, ?_, ih hm'⟩
      intro c hc
      rcases Memory.mem_write hc with hc | hc
      · exact hlt c hc
      · omega

theorem Memory.writeBytes_wf (bs : List Byte) {m : Memory} (a : Word) (hm : m.wf = true) :
    (m.writeBytes a bs).wf = true := by
  induction bs generalizing m a with
  | nil => exact hm
  | cons b bs ih => exact ih _ (Memory.write_wf b hm a.isLt)

/-- A 64-bit store keeps the canonical form. -/
theorem Memory.write64_wf {m : Memory} (a v : Word) (hm : m.wf = true) : (m.write64 a v).wf = true :=
  Memory.writeBytes_wf _ a hm

/-! ### Read after write -/

theorem Memory.read_of_forall_ne {m : Memory} {a : Nat} (h : ∀ c ∈ m, c.1 ≠ a) : m.read a = Memory.unlisted := by
  induction m with
  | nil => rfl
  | cons d m ih =>
    obtain ⟨b, w⟩ := d
    have hb : b ≠ a := h (b, w) (by simp)
    simp only [Memory.read, hb, if_false]
    exact ih fun c hc => h c (by simp [hc])

/-- The byte written is read back. -/
theorem Memory.read_write_same {m : Memory} (a : Nat) (v : Byte) (hm : m.wf = true) : (m.write a v).read a = v := by
  induction m with
  | nil =>
    simp only [Memory.write]
    split
    · simp_all [Memory.read]
    · simp [Memory.read]
  | cons d m ih =>
    obtain ⟨b, w⟩ := d
    obtain ⟨-, -, hlt, hm'⟩ := Memory.wf_cons.mp hm
    simp only [Memory.write]
    split_ifs with h1 h2 h3 h4
    · rw [h2]
      refine Memory.read_of_forall_ne fun c hc => ?_
      rcases List.mem_cons.mp hc with rfl | hc
      · exact Nat.ne_of_gt h1
      · exact Nat.ne_of_gt (lt_trans h1 (hlt c hc))
    · simp [Memory.read]
    · rw [h4]
      exact Memory.read_of_forall_ne fun c hc => h3 ▸ Nat.ne_of_gt (hlt c hc)
    · simp [Memory.read]
    · simp only [Memory.read, Ne.symm h3, if_false]
      exact ih hm'

/-- Every other byte reads as before. -/
theorem Memory.read_write_other (m : Memory) {a x : Nat} (v : Byte) (hx : x ≠ a) : (m.write a v).read x = m.read x := by
  induction m with
  | nil =>
    simp only [Memory.write]
    split
    · rfl
    · simp [Memory.read, Ne.symm hx]
  | cons d m ih =>
    obtain ⟨b, w⟩ := d
    simp only [Memory.write]
    split_ifs with h1 h2 h3 h4
    · rfl
    · simp [Memory.read, Ne.symm hx]
    · subst h3
      simp [Memory.read, Ne.symm hx]
    · subst h3
      simp [Memory.read, Ne.symm hx]
    · simp only [Memory.read, ih]

/-! ### Several bytes -/

/-- Addresses a small distance apart differ, modulo 2^64 too. -/
theorem addr_add_ne (a : Word) {i j : Nat} (hi : i < 2 ^ 64) (hj : j < 2 ^ 64) (h : i ≠ j) :
    (a + BitVec.ofNat 64 i).toNat ≠ (a + BitVec.ofNat 64 j).toNat := by
  simp only [BitVec.toNat_add, BitVec.toNat_ofNat]
  omega

theorem addr_succ (a : Word) (k : Nat) : a + BitVec.ofNat 64 (k + 1) = a + 1 + BitVec.ofNat 64 k := by
  rw [BitVec.add_assoc]
  exact congrArg (a + ·) (by rw [BitVec.ofNat_add, BitVec.add_comm]; rfl)

/-- A byte outside the stored ones reads as before. -/
theorem Memory.read_writeBytes_outside (bs : List Byte) (m : Memory) (a : Word) (x : Nat)
    (hx : ∀ k : Nat, k < bs.length → x ≠ (a + BitVec.ofNat 64 k).toNat) : (m.writeBytes a bs).read x = m.read x := by
  induction bs generalizing m a with
  | nil => rfl
  | cons b bs ih =>
    have h0 : x ≠ a.toNat := by simpa using hx 0 (by simp)
    rw [Memory.writeBytes, ih, Memory.read_write_other m b h0]
    intro k hk
    rw [← addr_succ]
    exact hx (k + 1) (by simpa using hk)

/-- The stored bytes are read back. -/
theorem Memory.read_writeBytes_inside (bs : List Byte) {m : Memory} (a : Word) (hm : m.wf = true)
    (hlen : bs.length ≤ 2 ^ 64) (k : Nat) (hk : k < bs.length) :
    (m.writeBytes a bs).read (a + BitVec.ofNat 64 k).toNat = bs[k] := by
  induction bs generalizing m a k with
  | nil => simp at hk
  | cons b bs ih =>
    have hlen' : bs.length + 1 ≤ 2 ^ 64 := by simpa using hlen
    rw [Memory.writeBytes]
    cases k with
    | zero =>
      rw [Memory.read_writeBytes_outside]
      · simpa using Memory.read_write_same a.toNat b hm
      · intro j hj
        rw [← addr_succ]
        exact addr_add_ne a (by omega) (by omega) (by omega)
    | succ k =>
      rw [addr_succ]
      have hk' : k < bs.length := by simpa using hk
      simpa using ih (a + 1) (Memory.write_wf b hm a.isLt) (by omega) k hk'

/-! ### The little-endian value of bytes -/

@[simp] theorem splitLE_length (n v : Nat) : (splitLE n v).length = n := by
  induction n generalizing v with
  | zero => rfl
  | succ n ih => simp [splitLE, ih]

/-- Joining the `n` bytes of a value gives its low `8n` bits. -/
theorem joinLE_splitLE (n v : Nat) : joinLE (splitLE n v) = v % 256 ^ n := by
  induction n generalizing v with
  | zero => simp [splitLE, joinLE, Nat.mod_one]
  | succ n ih =>
    have h : v % 256 ^ (n + 1) = v % 256 + 256 * (v / 256 % 256 ^ n) := by rw [pow_succ', Nat.mod_mul]
    rw [h, splitLE, joinLE, ih, BitVec.toNat_ofNat]

theorem Memory.readBytes_length (m : Memory) (a : Word) (n : Nat) : (m.readBytes a n).length = n := by
  induction n generalizing a with
  | zero => rfl
  | succ n ih => simp [Memory.readBytes, ih]

theorem Memory.readBytes_getElem (m : Memory) (a : Word) (n k : Nat) (hk : k < (m.readBytes a n).length) :
    (m.readBytes a n)[k] = m.read (a + BitVec.ofNat 64 k).toNat := by
  induction n generalizing a k with
  | zero => simp [Memory.readBytes] at hk
  | succ n ih =>
    cases k with
    | zero => simp [Memory.readBytes]
    | succ k =>
      rw [addr_succ]
      simp only [Memory.readBytes, List.getElem_cons_succ]
      exact ih (a + 1) k _

/-- Two memories that agree on the bytes of a read give the same bytes. -/
theorem Memory.readBytes_congr {m m' : Memory} (n : Nat) (a : Word)
    (h : ∀ k : Nat, k < n → m'.read (a + BitVec.ofNat 64 k).toNat = m.read (a + BitVec.ofNat 64 k).toNat) :
    m'.readBytes a n = m.readBytes a n := by
  apply List.ext_getElem
  · simp [Memory.readBytes_length]
  · intro k hk hk'
    rw [Memory.readBytes_getElem, Memory.readBytes_getElem]
    exact h k (by simpa [Memory.readBytes_length] using hk)

/-! ### The packets of an instruction (spec/30_encoding.md R86) -/

theorem packetAddr_zero (a : Word) : packetAddr a 0 = a := by simp [packetAddr]

/-- Packet 0 of the instruction at `a` is the packet at `a`, the one that is fetched. -/
theorem Memory.packetAt_zero (m : Memory) (a : Word) : m.packetAt a 0 = m.read16 a := by
  rw [Memory.packetAt, packetAddr_zero]

@[simp] theorem Memory.packetsAt_length (m : Memory) (a : Word) (n : Nat) : (m.packetsAt a n).length = n := by
  simp [Memory.packetsAt]

/-- Packet k of the instruction at `a` is the packet at `a + 2k`. -/
theorem Memory.packetsAt_getElem (m : Memory) (a : Word) (n k : Nat) (hk : k < (m.packetsAt a n).length) :
    (m.packetsAt a n)[k] = m.read16 (packetAddr a k) := by
  simp [Memory.packetsAt, Memory.packetAt]

/-- A 16-bit read is the packet of the two bytes there. -/
theorem Memory.read16_eq_packetOfBytes (m : Memory) (a : Word) :
    m.read16 a = packetOfBytes (m.read a.toNat) (m.read (a + 1).toNat) := by
  refine BitVec.eq_of_toNat_eq ?_
  have h0 := (m.read a.toNat).isLt
  have h1 := (m.read (a + 1).toNat).isLt
  rw [packetOfBytes, BitVec.toNat_append, Nat.shiftLeft_eq, Nat.mul_comm, ← Nat.two_pow_add_eq_or_of_lt h0]
  simp only [Memory.read16, Memory.readBytes, joinLE, BitVec.toNat_ofNat]
  omega

theorem packetOfBytes_packetBytes (w : Packet) : packetOfBytes (w.extractLsb' 0 8) (w.extractLsb' 8 8) = w := by
  refine BitVec.eq_of_getLsbD_eq fun i hi => ?_
  simp only [packetOfBytes, BitVec.getLsbD_append, BitVec.getLsbD_extractLsb']
  interval_cases i <;> simp

theorem packetsBytes_cons (w : Packet) (ws : List Packet) :
    packetsBytes (w :: ws) = w.extractLsb' 0 8 :: w.extractLsb' 8 8 :: packetsBytes ws := rfl

theorem packetsBytes_length (ws : List Packet) : (packetsBytes ws).length = 2 * ws.length := by
  induction ws with
  | nil => rfl
  | cons w ws ih =>
    rw [packetsBytes_cons, List.length_cons, List.length_cons, ih, List.length_cons]
    omega

/-- Bytes 2k and 2k + 1 of an instruction are its packet k. -/
theorem packetsBytes_getElem (ws : List Packet) (k : Nat) (hk : k < ws.length)
    (h0 : 2 * k < (packetsBytes ws).length) (h1 : 2 * k + 1 < (packetsBytes ws).length) :
    packetOfBytes (packetsBytes ws)[2 * k] (packetsBytes ws)[2 * k + 1] = ws[k] := by
  induction ws generalizing k with
  | nil => simp at hk
  | cons w ws ih =>
    cases k with
    | zero => exact packetOfBytes_packetBytes w
    | succ k =>
      have hk' : k < ws.length := by simpa using hk
      have hl := packetsBytes_length ws
      exact ih k hk' (by omega) (by omega)

/-- The packets placed at `a` are read back there, packet k at `a + 2k`. -/
theorem Memory.packetsAt_writePackets (ws : List Packet) {m : Memory} (a : Word) (hm : m.wf = true)
    (hlen : 2 * ws.length ≤ 2 ^ 64) : (m.writePackets a ws).packetsAt a ws.length = ws := by
  have hl := packetsBytes_length ws
  refine List.ext_getElem (by simp) fun k hk hk' => ?_
  have e : packetAddr a k + 1 = a + BitVec.ofNat 64 (2 * k + 1) := by
    rw [packetAddr, BitVec.ofNat_add, ← BitVec.add_assoc]
    rfl
  rw [Memory.packetsAt_getElem, Memory.read16_eq_packetOfBytes, e, packetAddr, Memory.writePackets,
    Memory.read_writeBytes_inside _ a hm (by omega) (2 * k) (by omega),
    Memory.read_writeBytes_inside _ a hm (by omega) (2 * k + 1) (by omega)]
  exact packetsBytes_getElem ws k hk' _ _

/-- Placing packets keeps the canonical form. -/
theorem Memory.writePackets_wf {m : Memory} (a : Word) (ws : List Packet) (hm : m.wf = true) :
    (m.writePackets a ws).wf = true :=
  Memory.writeBytes_wf _ a hm

end Sys2Proof.Machine
end

