-- ==== Sys2Proof/Laws/PerInstr.lean ====
section
/-! SUPPORT. Per instruction: the packet an instruction encodes to belongs to the instruction's own row of the opcode
map (spec/30_encoding.md R100 to R104). -/

namespace Sys2Proof.Laws

/-- The packet of `i` matches the row of `i` under the row's mask (spec/30_encoding.md R100). -/
def TableRow.Statement (i : Instr) : Prop := i.row.covers (encodePacket i) = true

theorem covers_of_and_mask {r : OpcodeRow} {w : Packet} (h : w &&& r.mask = r.value) : r.covers w = true :=
  beq_iff_eq.mpr h

theorem TableRow.brk (uimm9 : Nat) : TableRow.Statement (.brk uimm9) :=
  covers_of_and_mask (packI9_and_mask _ _)

theorem TableRow.j (simm9 : Int) : TableRow.Statement (.j simm9) :=
  covers_of_and_mask (packI9_and_mask _ _)

theorem TableRow.b (simm9 : Int) : TableRow.Statement (.b simm9) :=
  covers_of_and_mask (packI9_and_mask _ _)

theorem TableRow.ibj (simm9 : Int) : TableRow.Statement (.ibj simm9) :=
  covers_of_and_mask (packI9_and_mask _ _)

theorem TableRow.jalib (rc : Reg) (uimm6 : Nat) : TableRow.Statement (.jalib rc uimm6) :=
  covers_of_and_mask (packRI6_and_mask _ _ _)

theorem TableRow.jtlib (rc : Reg) (uimm6 : Nat) : TableRow.Statement (.jtlib rc uimm6) :=
  covers_of_and_mask (packRI6_and_mask _ _ _)

theorem TableRow.movib (rc : Reg) (uimm6 : Nat) : TableRow.Statement (.movib rc uimm6) :=
  covers_of_and_mask (packRI6_and_mask _ _ _)

theorem TableRow.movi (rc : Reg) (simm6 : Int) : TableRow.Statement (.movi rc simm6) :=
  covers_of_and_mask (packRI6_and_mask _ _ _)

theorem TableRow.addi (rc : Reg) (simm6 : Int) : TableRow.Statement (.addi rc simm6) :=
  covers_of_and_mask (packRI6_and_mask _ _ _)

theorem TableRow.srli (rc : Reg) (uimm6 : Nat) : TableRow.Statement (.srli rc uimm6) :=
  covers_of_and_mask (packRI6_and_mask _ _ _)

theorem TableRow.srai (rc : Reg) (uimm6 : Nat) : TableRow.Statement (.srai rc uimm6) :=
  covers_of_and_mask (packRI6_and_mask _ _ _)

theorem TableRow.slli (rc : Reg) (uimm6 : Nat) : TableRow.Statement (.slli rc uimm6) :=
  covers_of_and_mask (packRI6_and_mask _ _ _)

theorem TableRow.addib (rc : Reg) (uimm6 : Nat) : TableRow.Statement (.addib rc uimm6) :=
  covers_of_and_mask (packRI6_and_mask _ _ _)

theorem TableRow.leapc (rc : Reg) (uimm6 : Nat) : TableRow.Statement (.leapc rc uimm6) :=
  covers_of_and_mask (packRI6_and_mask _ _ _)

theorem TableRow.loadpc (rc : Reg) (uimm6 : Nat) : TableRow.Statement (.loadpc rc uimm6) :=
  covers_of_and_mask (packRI6_and_mask _ _ _)

theorem TableRow.storepc (rc : Reg) (uimm6 : Nat) : TableRow.Statement (.storepc rc uimm6) :=
  covers_of_and_mask (packRI6_and_mask _ _ _)

theorem TableRow.load (rc rb : Reg) (uimm3 : Nat) : TableRow.Statement (.load rc rb uimm3) :=
  covers_of_and_mask (packRRI3_and_mask _ _ _ _)

theorem TableRow.store (rc rb : Reg) (uimm3 : Nat) : TableRow.Statement (.store rc rb uimm3) :=
  covers_of_and_mask (packRRI3_and_mask _ _ _ _)

theorem TableRow.compareLt (rc rb : Reg) : TableRow.Statement (.compareLt rc rb) :=
  covers_of_and_mask (packRRI3_and_selector_mask _ _ _ _)

theorem TableRow.compareGe (rc rb : Reg) : TableRow.Statement (.compareGe rc rb) :=
  covers_of_and_mask (packRRI3_and_selector_mask _ _ _ _)

theorem TableRow.compareEq (rc rb : Reg) : TableRow.Statement (.compareEq rc rb) :=
  covers_of_and_mask (packRRI3_and_selector_mask _ _ _ _)

theorem TableRow.compareNe (rc rb : Reg) : TableRow.Statement (.compareNe rc rb) :=
  covers_of_and_mask (packRRI3_and_selector_mask _ _ _ _)

theorem TableRow.compareLtu (rc rb : Reg) : TableRow.Statement (.compareLtu rc rb) :=
  covers_of_and_mask (packRRI3_and_selector_mask _ _ _ _)

theorem TableRow.compareGeu (rc rb : Reg) : TableRow.Statement (.compareGeu rc rb) :=
  covers_of_and_mask (packRRI3_and_selector_mask _ _ _ _)

theorem TableRow.compareMov (rc rb : Reg) : TableRow.Statement (.compareMov rc rb) :=
  covers_of_and_mask (packRRI3_and_selector_mask _ _ _ _)

theorem TableRow.compareReserved (rc rb : Reg) : TableRow.Statement (.compareReserved rc rb) :=
  covers_of_and_mask (packRRI3_and_selector_mask _ _ _ _)

theorem TableRow.logicMov (rc rb : Reg) : TableRow.Statement (.logicMov rc rb) :=
  covers_of_and_mask (packRRI3_and_selector_mask _ _ _ _)

theorem TableRow.logicNot (rc rb : Reg) : TableRow.Statement (.logicNot rc rb) :=
  covers_of_and_mask (packRRI3_and_selector_mask _ _ _ _)

theorem TableRow.logicNeg (rc rb : Reg) : TableRow.Statement (.logicNeg rc rb) :=
  covers_of_and_mask (packRRI3_and_selector_mask _ _ _ _)

theorem TableRow.logicBswap (rc rb : Reg) : TableRow.Statement (.logicBswap rc rb) :=
  covers_of_and_mask (packRRI3_and_selector_mask _ _ _ _)

theorem TableRow.logicCtz (rc rb : Reg) : TableRow.Statement (.logicCtz rc rb) :=
  covers_of_and_mask (packRRI3_and_selector_mask _ _ _ _)

theorem TableRow.logicClz (rc rb : Reg) : TableRow.Statement (.logicClz rc rb) :=
  covers_of_and_mask (packRRI3_and_selector_mask _ _ _ _)

theorem TableRow.logicCtpop (rc rb : Reg) : TableRow.Statement (.logicCtpop rc rb) :=
  covers_of_and_mask (packRRI3_and_selector_mask _ _ _ _)

theorem TableRow.logicSext (rc rb : Reg) : TableRow.Statement (.logicSext rc rb) :=
  covers_of_and_mask (packRRI3_and_selector_mask _ _ _ _)

theorem TableRow.pin (rc rb ra : Reg) : TableRow.Statement (.pin rc rb ra) :=
  covers_of_and_mask (packRRR_and_mask _ _ _ _)

theorem TableRow.and (rc rb ra : Reg) : TableRow.Statement (.and rc rb ra) :=
  covers_of_and_mask (packRRR_and_mask _ _ _ _)

theorem TableRow.or (rc rb ra : Reg) : TableRow.Statement (.or rc rb ra) :=
  covers_of_and_mask (packRRR_and_mask _ _ _ _)

theorem TableRow.xor (rc rb ra : Reg) : TableRow.Statement (.xor rc rb ra) :=
  covers_of_and_mask (packRRR_and_mask _ _ _ _)

theorem TableRow.add (rc rb ra : Reg) : TableRow.Statement (.add rc rb ra) :=
  covers_of_and_mask (packRRR_and_mask _ _ _ _)

theorem TableRow.srl (rc rb ra : Reg) : TableRow.Statement (.srl rc rb ra) :=
  covers_of_and_mask (packRRR_and_mask _ _ _ _)

theorem TableRow.sra (rc rb ra : Reg) : TableRow.Statement (.sra rc rb ra) :=
  covers_of_and_mask (packRRR_and_mask _ _ _ _)

theorem TableRow.sll (rc rb ra : Reg) : TableRow.Statement (.sll rc rb ra) :=
  covers_of_and_mask (packRRR_and_mask _ _ _ _)

theorem TableRow.sub (rc rb ra : Reg) : TableRow.Statement (.sub rc rb ra) :=
  covers_of_and_mask (packRRR_and_mask _ _ _ _)

theorem TableRow.mul (rc rb ra : Reg) : TableRow.Statement (.mul rc rb ra) :=
  covers_of_and_mask (packRRR_and_mask _ _ _ _)

theorem TableRow.div (rc rb ra : Reg) : TableRow.Statement (.div rc rb ra) :=
  covers_of_and_mask (packRRR_and_mask _ _ _ _)

theorem TableRow.illegal (uimm9 : Nat) : TableRow.Statement (.illegal uimm9) :=
  covers_of_and_mask (packI9_and_mask _ _)

theorem TableRow.reserved32 (rest : Nat) : TableRow.Statement (.reserved32 rest) :=
  covers_of_and_mask (packHead_and_mask _ _)

theorem TableRow.reserved64 (rest : Nat) : TableRow.Statement (.reserved64 rest) :=
  covers_of_and_mask (packHead_and_mask _ _)

theorem TableRow.reserved128 (rest : Nat) : TableRow.Statement (.reserved128 rest) :=
  covers_of_and_mask (packHead_and_mask _ _)

end Sys2Proof.Laws
end

