-- ==== Sys2Proof/Tests/Slice0.lean ====
section
/-! SUPPORT. Tests of the model against values of spec/95_test_vectors.md and of the examples in the instruction rules,
and, for each obligation with hypotheses, a witness that meets them (each clause of it, at boundary values). -/

namespace Sys2Proof.Tests

open Sys2Proof.Machine

/-! ### Helpers -/

/-- What the answer's next state shows, if it is one. -/
def shown {α : Type} (f : State → α) : Host.Outcome State Fault Refusal → Option α
  | .next t => some (f t)
  | .fault _ => none
  | .refused _ => none

/-- The fault, if the answer is one. -/
def faultOf : Host.Outcome State Fault Refusal → Option Fault
  | .next _ => none
  | .fault r => some r
  | .refused _ => none

/-- The refusal, if the answer is one. -/
def refusalOf : Host.Outcome State Fault Refusal → Option Refusal
  | .next _ => none
  | .fault _ => none
  | .refused r => some r

/-- The launch of spec/95_test_vectors.md section 3: `pc` = 0x1000, `ib` = 0x8000. -/
def start : State := State.reset

/-- A quad placed in memory. -/
def place (a v : Word) (s : State) : State := s.setMem (s.mem.write64 a v)

/-- Another MEMORY_MAP. -/
def mapped (m : MemoryMap) (s : State) : State := { s with params := { s.params with memoryMap := m } }

/-- One step that fetches and runs the packet. -/
def run (w : Nat) (s : State) : Host.Outcome State Fault Refusal := step (s.withFetchWord 16 w)

/-! ### WellFormed refuses a value that its field does not hold -/

theorem test_wf_refuses_uimm9 : (Instr.brk 512).wf = false := by decide
theorem test_wf_refuses_uimm9_illegal : (Instr.illegal 512).wf = false := by decide
theorem test_wf_refuses_simm9_above : (Instr.j 256).wf = false := by decide
theorem test_wf_refuses_simm9_below : (Instr.b (-257)).wf = false := by decide
theorem test_wf_refuses_simm9_ibj : (Instr.ibj 256).wf = false := by decide
theorem test_wf_refuses_uimm6_constant : (Instr.jalib .r7 64).wf = false := by decide
theorem test_wf_refuses_uimm6_shift : (Instr.srli .r5 64).wf = false := by decide
theorem test_wf_refuses_uimm6_address : (Instr.loadpc .r5 64).wf = false := by decide
theorem test_wf_refuses_simm6_above : (Instr.movi .r5 32).wf = false := by decide
theorem test_wf_refuses_simm6_below : (Instr.addi .r5 (-33)).wf = false := by decide
theorem test_wf_refuses_uimm3 : (Instr.load .r5 .r0 8).wf = false := by decide
theorem test_wf_refuses_uimm3_store : (Instr.store .r5 .r0 8).wf = false := by decide
theorem test_wf_refuses_rest : (Instr.reserved32 16384).wf = false := by decide
theorem test_wf_accepts_bounds : (Instr.j (-256)).wf && (Instr.j 255).wf && (Instr.movi .r0 (-32)).wf &&
    (Instr.load .r0 .r7 7).wf && (Instr.brk 511).wf && (Instr.slli .r0 63).wf = true := by decide

/-! ### Decoding: words written out from spec/30_encoding.md R88 to R91, R100 to R104, grouped by field -/

theorem test_decode_brk : decodePacket 0b111111111_00000_00 = .brk 511 := by decide
theorem test_decode_j : decodePacket 0b000000011_00001_00 = .j 3 := by decide
theorem test_decode_b : decodePacket 0b100000000_00010_00 = .b (-256) := by decide
theorem test_decode_ibj : decodePacket 0b111111111_00011_00 = .ibj (-1) := by decide
theorem test_decode_jalib : decodePacket 0b111_000000_00100_00 = .jalib .r7 0 := by decide
theorem test_decode_jtlib : decodePacket 0b111_111111_00101_00 = .jtlib .r7 63 := by decide
theorem test_decode_movib : decodePacket 0b101_000010_00110_00 = .movib .r5 2 := by decide
theorem test_decode_movi : decodePacket 0b101_111111_00111_00 = .movi .r5 (-1) := by decide
theorem test_decode_addi : decodePacket 0b000_111000_01000_00 = .addi .r0 (-8) := by decide
theorem test_decode_srli : decodePacket 0b101_000100_01001_00 = .srli .r5 4 := by decide
theorem test_decode_srai : decodePacket 0b101_111111_01010_00 = .srai .r5 63 := by decide
theorem test_decode_slli : decodePacket 0b101_001000_01011_00 = .slli .r5 8 := by decide
theorem test_decode_addib : decodePacket 0b101_000011_01100_00 = .addib .r5 3 := by decide
theorem test_decode_leapc : decodePacket 0b101_000001_01101_00 = .leapc .r5 1 := by decide
theorem test_decode_loadpc : decodePacket 0b101_000001_01110_00 = .loadpc .r5 1 := by decide
theorem test_decode_storepc : decodePacket 0b101_000001_01111_00 = .storepc .r5 1 := by decide
theorem test_decode_load : decodePacket 0b101_000_010_10000_00 = .load .r5 .r0 2 := by decide
theorem test_decode_store : decodePacket 0b101_000_111_10001_00 = .store .r5 .r0 7 := by decide
theorem test_decode_compareLt : decodePacket 0b101_110_000_10010_00 = .compareLt .r5 .r6 := by decide
theorem test_decode_compareGe : decodePacket 0b101_110_001_10010_00 = .compareGe .r5 .r6 := by decide
theorem test_decode_compareEq : decodePacket 0b101_110_010_10010_00 = .compareEq .r5 .r6 := by decide
theorem test_decode_compareNe : decodePacket 0b101_110_011_10010_00 = .compareNe .r5 .r6 := by decide
theorem test_decode_compareLtu : decodePacket 0b101_110_100_10010_00 = .compareLtu .r5 .r6 := by decide
theorem test_decode_compareGeu : decodePacket 0b101_110_101_10010_00 = .compareGeu .r5 .r6 := by decide
theorem test_decode_compareMov : decodePacket 0b101_110_110_10010_00 = .compareMov .r5 .r6 := by decide
theorem test_decode_compareReserved : decodePacket 0b101_110_111_10010_00 = .compareReserved .r5 .r6 := by decide
theorem test_decode_logicMov : decodePacket 0b101_110_000_10011_00 = .logicMov .r5 .r6 := by decide
theorem test_decode_logicNot : decodePacket 0b101_110_001_10011_00 = .logicNot .r5 .r6 := by decide
theorem test_decode_logicNeg : decodePacket 0b101_110_010_10011_00 = .logicNeg .r5 .r6 := by decide
theorem test_decode_logicBswap : decodePacket 0b101_110_011_10011_00 = .logicBswap .r5 .r6 := by decide
theorem test_decode_logicCtz : decodePacket 0b101_110_100_10011_00 = .logicCtz .r5 .r6 := by decide
theorem test_decode_logicClz : decodePacket 0b101_110_101_10011_00 = .logicClz .r5 .r6 := by decide
theorem test_decode_logicCtpop : decodePacket 0b101_110_110_10011_00 = .logicCtpop .r5 .r6 := by decide
theorem test_decode_logicSext : decodePacket 0b101_110_111_10011_00 = .logicSext .r5 .r6 := by decide
theorem test_decode_pin : decodePacket 0b111_110_101_10100_00 = .pin .r7 .r6 .r5 := by decide
theorem test_decode_and : decodePacket 0b100_101_110_10101_00 = .and .r4 .r5 .r6 := by decide
theorem test_decode_or : decodePacket 0b100_101_110_10110_00 = .or .r4 .r5 .r6 := by decide
theorem test_decode_xor : decodePacket 0b100_101_110_10111_00 = .xor .r4 .r5 .r6 := by decide
theorem test_decode_add : decodePacket 0b100_101_110_11000_00 = .add .r4 .r5 .r6 := by decide
theorem test_decode_srl : decodePacket 0b100_101_110_11001_00 = .srl .r4 .r5 .r6 := by decide
theorem test_decode_sra : decodePacket 0b100_101_110_11010_00 = .sra .r4 .r5 .r6 := by decide
theorem test_decode_sll : decodePacket 0b100_101_110_11011_00 = .sll .r4 .r5 .r6 := by decide
theorem test_decode_sub : decodePacket 0b100_101_110_11100_00 = .sub .r4 .r5 .r6 := by decide
theorem test_decode_mul : decodePacket 0b100_101_110_11101_00 = .mul .r4 .r5 .r6 := by decide
theorem test_decode_div : decodePacket 0b100_101_110_11110_00 = .div .r4 .r5 .r6 := by decide
theorem test_decode_illegal : decodePacket 0b111111111_11111_00 = .illegal 511 := by decide
theorem test_decode_reserved32 : decodePacket 0b00000000000001_01 = .reserved32 1 := by decide
theorem test_decode_reserved64 : decodePacket 0b10000000000000_10 = .reserved64 8192 := by decide
theorem test_decode_reserved128 : decodePacket 0b11111111111111_11 = .reserved128 16383 := by decide

/-- The bytes `58 00` are `or.i64 r0,r0,r0` (spec/20_memory.md R53). -/
theorem test_decode_bytes : decode [0x58, 0x00] = .ok (.or .r0 .r0 .r0) [] := by decide

theorem test_decode_rejects_one_byte : decode [0x58] = .rejected (.truncated 1) := by decide

/-- The heads of the lengths and their size fields (spec/30_encoding.md R85). -/
theorem test_length_table :
    [0, 1, 2, 3].map (fun k => (lengthOfSize (BitVec.ofNat 2 k)).packets) = [1, 2, 4, 8] := by decide

/-- A 32-bit instruction's fields (spec/30_encoding.md R82). -/
theorem test_template_of_32_bits :
    readTemplate [0xFFFD, 0x0087] = some (.bits32, ⟨511 + 512 * 1, 31 + 32 * 1, 0b1101⟩) := by decide

/-- The same instruction in memory: packet k at `pc + 2k` (spec/30_encoding.md R86). -/
theorem test_packets_in_memory :
    let m := start.mem.writePackets 0x1000 [0xFFFD, 0x0087]
    (m.read 0x1000, m.read 0x1001, m.read 0x1002, m.read 0x1003) = (0xFD, 0xFF, 0x87, 0x00) ∧
      m.templateAt 0x1000 = some (.bits32, ⟨511 + 512 * 1, 31 + 32 * 1, 0b1101⟩) := by decide

/-! ### One step of each instruction -/

/-- spec/46_system.md R230. -/
theorem test_break_saves_pc :
    shown (fun t => (t.tpc, t.lastTrap, t.reg .r5)) (run 0x0000 (start.setPc 0x1010)) =
      some (0x1010, some (.breakpoint 0), 0) := by decide

/-- spec/40_jumps_imm9.md R120. -/
theorem test_j_forward :
    shown (·.pc) (run 0x0184 start) = some 0x1008 := by decide

/-- spec/40_jumps_imm9.md R120. -/
theorem test_j_to_itself :
    shown (·.pc) (run 0xFF84 start) = some 0x1000 := by decide

/-- spec/40_jumps_imm9.md R121. -/
theorem test_b_taken :
    shown (·.pc) (run 0x0188 ((start.setPc 0x2000).setFlag true)) = some 0x2008 := by decide

/-- spec/40_jumps_imm9.md R121. -/
theorem test_b_not_taken :
    shown (·.pc) (run 0x0188 (start.setPc 0x2000)) = some 0x2002 := by decide

/-- spec/40_jumps_imm9.md R122. -/
theorem test_ibj_back :
    shown (fun t => (t.ib, t.pc)) (run 0xFF8C start) = some (0x7FC0, 0x1002) := by decide

/-- spec/41_link_vector.md R130. -/
theorem test_jalib_call :
    shown (fun t => (t.pc, t.ib, t.reg .r7)) (run 0xE010 (place 0x8000 0x00000040000000FE start)) =
      some (0x1100, 0x8040, 0x00000040000000FE) := by decide

/-- spec/41_link_vector.md R131. -/
theorem test_jtlib_return :
    shown (fun t => (t.pc, t.ib, t.reg .r7))
      (run 0xE014 (place 0x8040 0x00000000FFFFFFE0
        (((start.setPc 0x1120).setIb 0x8040).setReg .r7 0x00000040000000FE))) =
      some (0x1002, 0x8000, 0x00000040000000FE) := by decide

/-- spec/42_imm6_ops.md R140. -/
theorem test_movib :
    shown (·.reg .r5) (run 0xA118 (place 0x8010 0x123456789ABCDEF0 start)) = some 0x123456789ABCDEF0 := by decide

/-- spec/42_imm6_ops.md R141. -/
theorem test_movi_minus_one :
    shown (·.reg .r5) (run 0xBF9C start) = some 0xFFFFFFFFFFFFFFFF := by decide

/-- spec/42_imm6_ops.md R142. -/
theorem test_addi_negative :
    shown (·.reg .r0) (run 0x1C20 (start.setReg .r0 0x10000)) = some 0xFFF8 := by decide

/-- spec/42_imm6_ops.md R143. -/
theorem test_srli :
    shown (·.reg .r5) (run 0xA224 (start.setReg .r5 0x8000000000000000)) = some 0x0800000000000000 := by decide

/-- spec/42_imm6_ops.md R144. -/
theorem test_srai_sign :
    shown (·.reg .r5) (run 0xBFA8 (start.setReg .r5 0x8000000000000000)) = some 0xFFFFFFFFFFFFFFFF := by decide

/-- spec/42_imm6_ops.md R145. -/
theorem test_slli :
    shown (·.reg .r5) (run 0xA42C (start.setReg .r5 0x00FF0000000000FF)) = some 0xFF0000000000FF00 := by decide

/-- spec/42_imm6_ops.md R146: the long at 0x800C is the high half of the quad at 0x8008. -/
theorem test_addib_sign_extends :
    shown (·.reg .r5) (run 0xA1B0 (place 0x8008 0xFFFFFFFE00000000 (start.setReg .r5 10))) = some 8 := by decide

/-- spec/42_imm6_ops.md R147. -/
theorem test_leapc_own_address :
    shown (·.reg .r5) (run 0xA0B4 (place 0x8000 0x0000010000000000 start)) = some 0x1100 := by decide

/-- spec/43_loads_stores.md R160. -/
theorem test_loadpc :
    shown (·.reg .r5) (run 0xA0B8 (place 0x2000 0x1122334455667788 (place 0x8000 0x0000100000000000 start))) =
      some 0x1122334455667788 := by decide

/-- spec/43_loads_stores.md R161. -/
theorem test_storepc_bytes :
    shown (·.mem.readBytes 0x2000 8)
      (run 0xA0BC (place 0x8000 0x0000100000000000 (start.setReg .r5 0xDEADBEEF00C0FFEE))) =
      some [0xEE, 0xFF, 0xC0, 0x00, 0xEF, 0xBE, 0xAD, 0xDE] := by decide

/-- spec/43_loads_stores.md R162. -/
theorem test_load :
    shown (·.reg .r5) (run 0xA140 (place 0x3010 0x42 (start.setReg .r0 0x3000))) = some 0x42 := by decide

/-- spec/20_memory.md R56. -/
theorem test_load_misaligned :
    refusalOf (run 0xA140 (start.setReg .r0 0x3004)) = some (.misalignedAccess 0x3014) := by decide

/-- spec/43_loads_stores.md R163. -/
theorem test_store_bytes :
    shown (·.mem.readBytes 0x3038 8) (run 0xA3C4 ((start.setReg .r0 0x3000).setReg .r5 0x0102030405060708)) =
      some [0x08, 0x07, 0x06, 0x05, 0x04, 0x03, 0x02, 0x01] := by decide

/-- spec/44_compare_logic.md R171. -/
theorem test_compare_lt :
    shown (·.flag) (run 0xB848 ((start.setReg .r5 0xFFFFFFFFFFFFFFFF).setReg .r6 1)) = some true := by decide

/-- spec/44_compare_logic.md R172. -/
theorem test_compare_ge :
    shown (·.flag) (run 0xB8C8 ((start.setReg .r5 0xFFFFFFFFFFFFFFFF).setReg .r6 1)) = some false := by decide

/-- spec/44_compare_logic.md R173. -/
theorem test_compare_eq :
    shown (·.flag) (run 0xB948 ((start.setReg .r5 0xFFFFFFFFFFFFFFFF).setReg .r6 1)) = some false := by decide

/-- spec/44_compare_logic.md R174. -/
theorem test_compare_ne :
    shown (·.flag) (run 0xB9C8 ((start.setReg .r5 0xFFFFFFFFFFFFFFFF).setReg .r6 1)) = some true := by decide

/-- spec/44_compare_logic.md R175. -/
theorem test_compare_ltu :
    shown (·.flag) (run 0xBA48 ((start.setReg .r5 0xFFFFFFFFFFFFFFFF).setReg .r6 1)) = some false := by decide

/-- spec/44_compare_logic.md R176. -/
theorem test_compare_geu :
    shown (·.flag) (run 0xBAC8 ((start.setReg .r5 0xFFFFFFFFFFFFFFFF).setReg .r6 1)) = some true := by decide

/-- spec/44_compare_logic.md R177. -/
theorem test_compare_mov_set :
    shown (·.reg .r5) (run 0xBB48 (((start.setReg .r5 7).setReg .r6 9).setFlag true)) = some 9 := by decide

/-- spec/44_compare_logic.md R177. -/
theorem test_compare_mov_clear :
    shown (·.reg .r5) (run 0xBB48 ((start.setReg .r5 7).setReg .r6 9)) = some 7 := by decide

/-- spec/44_compare_logic.md R178. -/
theorem test_compare_reserved :
    refusalOf (run 0xBBC8 start) = some .reservedEncoding := by decide

/-- spec/44_compare_logic.md R181. -/
theorem test_logic_mov :
    shown (·.reg .r5) (run 0xB84C (start.setReg .r6 0x1234)) = some 0x1234 := by decide

/-- spec/44_compare_logic.md R182. -/
theorem test_logic_not :
    shown (·.reg .r5) (run 0xB8CC (start.setReg .r6 0x80000000)) = some 0xFFFFFFFF7FFFFFFF := by decide

/-- spec/44_compare_logic.md R183. -/
theorem test_logic_neg :
    shown (·.reg .r5) (run 0xB94C (start.setReg .r6 0x80000000)) = some 0xFFFFFFFF80000000 := by decide

/-- spec/44_compare_logic.md R184. -/
theorem test_logic_bswap :
    shown (·.reg .r5) (run 0xB9CC (start.setReg .r6 0x102030405060708)) = some 0x807060504030201 := by decide

/-- spec/44_compare_logic.md R185. -/
theorem test_logic_ctz :
    shown (·.reg .r5) (run 0xBA4C (start.setReg .r6 0x80000000)) = some 0x1F := by decide

/-- spec/44_compare_logic.md R186. -/
theorem test_logic_clz :
    shown (·.reg .r5) (run 0xBACC (start.setReg .r6 0x80000000)) = some 0x20 := by decide

/-- spec/44_compare_logic.md R187. -/
theorem test_logic_ctpop :
    shown (·.reg .r5) (run 0xBB4C (start.setReg .r6 0xFF00FF00FF00FF)) = some 0x20 := by decide

/-- spec/44_compare_logic.md R188. -/
theorem test_logic_sext :
    shown (·.reg .r5) (run 0xBBCC (start.setReg .r6 0x80000000)) = some 0xFFFFFFFF80000000 := by decide

/-- spec/44_compare_logic.md R186. -/
theorem test_clz_of_zero :
    shown (·.reg .r5) (run 0xBACC (start.setReg .r6 0)) = some 64 := by decide

/-- spec/45_three_operand.md R200. -/
theorem test_pin :
    shown (·.reg .r7) (run 0xFAD0 (((start.setIb 0x8040).setReg .r5 0x1100).setReg .r6 0x8080)) =
      some 0xFFFFFFC0FFFFFF02 := by decide

/-- spec/45_three_operand.md R201. -/
theorem test_and_example :
    shown (·.reg .r4) (run 0x9754 ((start.setReg .r5 0xFF00FF00FF00FF00).setReg .r6 0xFF00FF00FF00FF0)) =
      some 0xF000F000F000F00 := by decide

/-- spec/45_three_operand.md R202. -/
theorem test_or_example :
    shown (·.reg .r4) (run 0x9758 ((start.setReg .r5 0xFF00FF00FF00FF00).setReg .r6 0xFF00FF00FF00FF0)) =
      some 0xFFF0FFF0FFF0FFF0 := by decide

/-- spec/45_three_operand.md R203. -/
theorem test_xor_example :
    shown (·.reg .r4) (run 0x975C ((start.setReg .r5 0xFF00FF00FF00FF00).setReg .r6 0xFF00FF00FF00FF0)) =
      some 0xF0F0F0F0F0F0F0F0 := by decide

/-- spec/45_three_operand.md R204. -/
theorem test_add_example :
    shown (·.reg .r4) (run 0x9760 ((start.setReg .r5 0xFFFFFFFFFFFFFFFF).setReg .r6 0x2)) =
      some 0x1 := by decide

/-- spec/45_three_operand.md R205. -/
theorem test_srl_example :
    shown (·.reg .r4) (run 0x9764 ((start.setReg .r5 0x8000000000000000).setReg .r6 0x4)) =
      some 0x800000000000000 := by decide

/-- spec/45_three_operand.md R206. -/
theorem test_sra_example :
    shown (·.reg .r4) (run 0x9768 ((start.setReg .r5 0x8000000000000000).setReg .r6 0x4)) =
      some 0xF800000000000000 := by decide

/-- spec/45_three_operand.md R207. -/
theorem test_sll_example :
    shown (·.reg .r4) (run 0x976C ((start.setReg .r5 0x1).setReg .r6 0x3F)) =
      some 0x8000000000000000 := by decide

/-- spec/45_three_operand.md R208. -/
theorem test_sub_example :
    shown (·.reg .r4) (run 0x9770 ((start.setReg .r5 0x0).setReg .r6 0x1)) =
      some 0xFFFFFFFFFFFFFFFF := by decide

/-- spec/45_three_operand.md R209. -/
theorem test_mul_example :
    shown (·.reg .r4) (run 0x9774 ((start.setReg .r5 0xFFFFFFFFFFFFFFFF).setReg .r6 0x3)) =
      some 0xFFFFFFFFFFFFFFFD := by decide

/-- spec/45_three_operand.md R210. -/
theorem test_div_example :
    shown (·.reg .r4) (run 0x9778 ((start.setReg .r5 0xFFFFFFFFFFFFFFF9).setReg .r6 0x2)) =
      some 0xFFFFFFFFFFFFFFFD := by decide

/-- spec/45_three_operand.md R211, with SHIFT_AMOUNT_RULE = saturate. -/
theorem test_sll_saturates :
    shown (·.reg .r4) (exec (.sll .r4 .r5 .r6)
      { (start.setReg .r5 1).setReg .r6 64 with params := { start.params with shiftAmountRule := .saturate } }) = some 0 := by decide

/-- spec/60_exceptions.md R242. -/
theorem test_div_by_zero_traps :
    shown (fun t => (t.tpc, t.lastTrap, t.reg .r4)) (run 0x9778 ((start.setReg .r4 5).setReg .r5 7)) =
      some (0x1000, some .divideByZero, 5) := by decide

/-- spec/46_system.md R231. -/
theorem test_illegal_saves_pc :
    shown (fun t => (t.tpc, t.lastTrap)) (run 0x007C (start.setPc 0x1010)) =
      some (0x1010, some (.illegalInstruction 0)) := by decide

/-- spec/30_encoding.md R104. -/
theorem test_head_of_32_bits_refused :
    refusalOf (run 0x0001 start) = some .unmodelledLength := by decide

/-- spec/30_encoding.md R104. -/
theorem test_head_of_64_bits_refused :
    refusalOf (run 0x0002 start) = some .unmodelledLength := by decide

/-- spec/30_encoding.md R104. -/
theorem test_head_of_128_bits_refused :
    refusalOf (run 0xFFFF start) = some .unmodelledLength := by decide

/-- spec/60_exceptions.md R248. -/
theorem test_odd_pc_has_no_step :
    faultOf (step (start.setPc 0x1001)) = some .oddPc := by decide

/-- spec/30_encoding.md R110, R112: `call` and the four swapped comparisons. -/
theorem test_call_expands :
    [Pseudo.call ⟨0x1100, 0x8040⟩ 0, .ret ⟨0x1100, 0x8040⟩ 0, .cmpGt .r5 .r6, .cmpLe .r5 .r6, .cmpGtu .r5 .r6,
      .cmpLeu .r5 .r6].map (fun p => encodePacket (expandPseudo p)) =
      [0xE010, 0xE014, 0xD448, 0xD4C8, 0xD648, 0xD6C8] := by decide

/-- spec/41_link_vector.md R134, on the example of R130. -/
theorem test_call_constant :
    callVector ⟨0x1000, 0x8000⟩ ⟨0x1100, 0x8040⟩ = 0x00000040000000FE := by decide

/-- spec/41_link_vector.md R134, on the example of R131. -/
theorem test_ret_constant :
    retVector ⟨0x1120, 0x8040⟩ ⟨0x1100, 0x8040⟩ = 0x00000000FFFFFFE0 := by decide

/-- spec/30_encoding.md R109. -/
theorem test_balign_pads :
    emitDirective 10 (.balign 8 0) ++ emitDirective 16 (.long [-2]) = [0, 0, 0, 0, 0, 0, 0xFE, 0xFF, 0xFF, 0xFF] := by decide

/-! ### Witnesses: states and operands that meet the hypotheses of the obligations -/

/-- A state with a `pc`, an `ib`, one quad in memory and one register. -/
def sample (pc ib a v : Word) (r : Reg) (x : Word) : State := ((place a v start).setPc pc).setIb ib |>.setReg r x

theorem witness_DecodeEncodeRoundTrip :
    (Instr.j (-256)).WellFormed ∧ (Instr.j 255).WellFormed ∧ (Instr.movi .r7 (-32)).WellFormed ∧
      (Instr.load .r7 .r0 7).WellFormed ∧ (Instr.compareReserved .r7 .r7).WellFormed ∧
      (Instr.reserved128 16383).WellFormed := by decide

theorem witness_TemplateFieldsByPacket :
    0 < (List.replicate 8 (0xFFFF : Packet)).length ∧ 7 < (List.replicate 8 (0xFFFF : Packet)).length := by decide

theorem witness_StepRunsDecodedInstruction :
    let s := start.withFetchWord 16 0x0184
    isAligned s.pc 2 = true ∧ s.params.memoryMap.admitsRead s.pc 2 = true ∧
      decode [s.mem.read s.pc.toNat, s.mem.read (s.pc + 1).toNat] = .ok (.j 3) [] ∧ (Instr.j 3).WellFormed := by decide

theorem witness_StepKeepsLegal : start.Legal ∧ ∃ t, step start = .next t :=
  ⟨by decide, _, rfl⟩

theorem witness_FlagWrittenOnlyByCompare : ∃ t, exec (.compareEq .r0 .r0) start = .next t ∧ t.flag ≠ start.flag :=
  ⟨_, rfl, by decide⟩

theorem witness_ImmediateBaseWrittenOnlyByThree : ∃ t, exec (.ibj 1) start = .next t ∧ t.ib ≠ start.ib :=
  ⟨_, rfl, by decide⟩

theorem witness_MemoryWrittenOnlyByStores :
    ∃ t, exec (.store .r5 .r0 0) (start.setReg .r5 1) = .next t ∧ ¬ SameMemory (start.setReg .r5 1) t :=
  ⟨_, rfl, fun h => absurd (h 0) (by decide)⟩

theorem witness_RegistersWrittenOnlyByDestination :
    ∃ t, exec (.movi .r5 1) start = .next t ∧ t.reg .r5 ≠ start.reg .r5 :=
  ⟨_, rfl, by decide⟩

/-- A trap, and an instruction that takes none. -/
theorem witness_TrapRegistersWrittenOnlyByTraps :
    (∃ t, exec (.illegal 7) start = .next t) ∧ ∃ t, exec (.movi .r5 1) start = .next t :=
  ⟨⟨_, rfl⟩, _, rfl⟩

theorem witness_ParametersConstant : ∃ t, step start = .next t :=
  ⟨_, rfl⟩

/-- Memory reads 0 at `start`, and the packet 0 is `break 0`. -/
theorem witness_RunEndsAtFirstTrap : ∃ t, runToTrap 1 start = .next t ∧ t.ended = true ∧ 1 ≤ 3 :=
  ⟨_, rfl, by decide, by decide⟩

/-- The last bit of the last byte of each width. -/
theorem witness_MemReadLittleEndian : (7 < 8 ∧ 1 < 2) ∧ (7 < 8 ∧ 3 < 4) ∧ (7 < 8 ∧ 7 < 8) := by decide

/-- The last byte written, and a byte just outside, for a write at the top of the address space. -/
theorem witness_MemWriteLittleEndian :
    Memory.wf [(0x3000, 1)] = true ∧ (7 < 8 ∧ 7 < 8) ∧
      ∀ k : Nat, k < 8 → 0 ≠ ((0xFFFFFFFFFFFFFFF8 : Word) + BitVec.ofNat 64 k).toNat := by decide

theorem witness_MixedWidthReads : Memory.wf [(0x3000, 1), (0x3007, 0x80)] = true := by decide

theorem witness_EffectiveAddresses : 8 ∈ [2, 4, 8] ∧ isAligned 0xFFFFFFFFFFFFFFF8 8 = true := by decide

theorem witness_JumpMovesPc : fitsSigned 9 (-256) = true ∧ fitsSigned 9 255 = true := by decide

theorem witness_BranchFollowsFlag :
    fitsSigned 9 (-256) = true ∧ (start.setFlag true).flag = true ∧ start.flag = false := by decide

theorem witness_BlockJumpMovesIb : fitsSigned 9 (-256) = true ∧ fitsSigned 9 255 = true := by decide

/-- The constant of slot 63, for the new pair; and an odd `rpc`, for the refusal. -/
theorem witness_JalibMovesPairAndLinks :
    fitsUnsigned 6 63 = true ∧
      (let s := sample 0x1000 0x8000 0x81F8 0xFFFFFFC0FFFFFFFE .r7 0
       s.constReadable (const64Addr s 63) 8 ∧ s.mem.read64 (const64Addr s 63) = 0xFFFFFFC0FFFFFFFE ∧
        (s.pc.toNat + (vecPc 0xFFFFFFC0FFFFFFFE).toInt) % 2 = 0 ∧
        (s.ib.toNat + (vecIb 0xFFFFFFC0FFFFFFFE).toInt) % 64 = 0) ∧
      (let s := sample 0x1000 0x8000 0x8000 0x0000000000000001 .r7 0
       s.constReadable (const64Addr s 0) 8 ∧ s.mem.read64 (const64Addr s 0) = 1 ∧
        (s.pc.toNat + (vecPc 1).toInt) % 2 ≠ 0) :=
  ⟨by decide, ⟨⟨by decide, by decide⟩, by decide, by decide, by decide⟩, ⟨by decide, by decide⟩, by decide, by decide⟩

/-- The example of spec/41_link_vector.md R131, and an `ib` distance that is no multiple of 64. -/
theorem witness_JtlibMovesPairBack :
    fitsUnsigned 6 0 = true ∧
      (let s := sample 0x1120 0x8040 0x8040 0x00000000FFFFFFE0 .r7 0x00000040000000FE
       s.constReadable (const64Addr s 0) 8 ∧ s.mem.read64 (const64Addr s 0) = 0x00000000FFFFFFE0 ∧
        ((vecPc 0x00000000FFFFFFE0).toInt - (vecPc (s.reg .r7)).toInt).bmod (2 ^ 32) = -0x11E ∧
        ((vecIb 0x00000000FFFFFFE0).toInt - (vecIb (s.reg .r7)).toInt).bmod (2 ^ 32) = -0x40 ∧
        (s.pc.toNat + (-0x11E : Int)) % 2 = 0 ∧ (s.ib.toNat + (-0x40 : Int)) % 64 = 0) ∧
      (let s := sample 0x1120 0x8040 0x8040 0 .r7 0x0000000100000000
       s.constReadable (const64Addr s 0) 8 ∧ s.mem.read64 (const64Addr s 0) = 0 ∧
        ((vecIb 0).toInt - (vecIb (s.reg .r7)).toInt).bmod (2 ^ 32) = -1 ∧
        (s.ib.toNat + (-1 : Int)) % 64 ≠ 0) :=
  ⟨by decide, ⟨⟨by decide, by decide⟩, by decide, by decide, by decide, by decide, by decide⟩,
    ⟨by decide, by decide⟩, by decide, by decide, by decide⟩

theorem witness_MisalignedTargetRefused :
    (let s := sample 0x1000 0x8000 0x8000 0x0000000000000001 .r7 0
     s.constReadable (const64Addr s 0) 8 ∧
      (s.pc + (vecPc (s.mem.read64 (const64Addr s 0))).signExtend 64 + 2).toNat % 2 ≠ 0) ∧
    (let s := sample 0x1120 0x8040 0x8040 0 .r7 0x0000002000000000
     s.constReadable (const64Addr s 0) 8 ∧
      (s.ib + (vecIb (s.mem.read64 (const64Addr s 0)) - vecIb (s.reg .r7)).signExtend 64).toNat % 64 ≠ 0) :=
  ⟨⟨⟨by decide, by decide⟩, by decide⟩, ⟨by decide, by decide⟩, by decide⟩

/-- The caller and the `ret` of the examples of spec/41_link_vector.md R130, R131. -/
theorem witness_CallThenReturnComesBack :
    let c := sample 0x1000 0x8000 0x8000 0x00000040000000FE .r7 0
    let r := sample 0x1120 0x8040 0x8040 0x00000000FFFFFFE0 .r7 0x00000040000000FE
    isAligned c.pc 2 = true ∧ isAligned c.ib 64 = true ∧
      (∃ e, exec (.jalib .r7 0) c = .next e ∧ r.reg .r7 = e.reg .r7 ∧
        r.mem.read64 (const64Addr r 0) = retVector ⟨r.pc, r.ib⟩ ⟨e.pc, e.ib⟩) ∧
      r.constReadable (const64Addr r 0) 8 ∧ Fits32 (c.pc + 2 - r.pc) ∧ Fits32 (c.ib - r.ib) :=
  ⟨by decide, by decide, ⟨_, rfl, by decide, by decide⟩, ⟨by decide, by decide⟩, ⟨by decide, by decide⟩,
    ⟨by decide, by decide⟩⟩

theorem witness_CallReachesSymbol :
    let s := sample 0x1000 0x8000 0x8000 0x00000040000000FE .r7 0
    s.constReadable (const64Addr s 0) 8 ∧
      s.mem.read64 (const64Addr s 0) = callVector ⟨s.pc, s.ib⟩ ⟨0x1100, 0x8040⟩ ∧
      isAligned 0x1100 2 = true ∧ isAligned 0x8040 64 = true ∧
      Fits32 (0x1100 - (s.pc + 2)) ∧ Fits32 (0x8040 - s.ib) :=
  ⟨⟨by decide, by decide⟩, by decide, by decide, by decide, ⟨by decide, by decide⟩, ⟨by decide, by decide⟩⟩

/-- The example of spec/45_three_operand.md R200, with a zero quad in slot 0. -/
theorem witness_PinThenJtlibJumpsToPair :
    let s := ((start.setIb 0x8040).setReg .r5 0x1100).setReg .r6 0x8080
    (∃ p, exec (.pin .r7 .r6 .r5) s = .next p ∧ p.constReadable (const64Addr p 0) 8 ∧
        p.mem.read64 (const64Addr p 0) = 0) ∧
      (s.reg .r5).toNat % 2 = 0 ∧ (s.reg .r6).toNat % 64 = 0 ∧
      Fits32 (s.reg .r5 - (s.pc + 2)) ∧ Fits32 (s.reg .r6 - s.ib) :=
  ⟨⟨_, rfl, ⟨by decide, by decide⟩, by decide⟩, by decide, by decide, ⟨by decide, by decide⟩, ⟨by decide, by decide⟩⟩

theorem witness_MovibLoadsConstant : fitsUnsigned 6 63 = true ∧ start.constReadable (const64Addr start 63) 8 :=
  ⟨by decide, by decide, by decide⟩

theorem witness_MoviAndAddi : fitsSigned 6 (-32) = true ∧ fitsSigned 6 31 = true := by decide

theorem witness_ImmediateShifts : fitsUnsigned 6 0 = true ∧ fitsUnsigned 6 63 = true := by decide

theorem witness_AddibAndLeapc : fitsUnsigned 6 63 = true ∧ start.constReadable (const32Addr start 63) 4 :=
  ⟨by decide, by decide, by decide⟩

/-- Both addressing modes at an aligned address, and at one that is not. -/
theorem witness_LoadsReadMemory :
    fitsUnsigned 3 7 = true ∧ fitsUnsigned 6 63 = true ∧ start.loadable (regRelAddr start .r0 7) ∧
      start.constReadable (const32Addr start 63) 4 ∧
      start.loadable (pcRelAddr start (start.mem.read32 (const32Addr start 63))) ∧
      (regRelAddr (start.setReg .r0 4) .r0 7).toNat % 8 ≠ 0 ∧
      (let s := start.setPc 0x1002
       s.constReadable (const32Addr s 63) 4 ∧ (pcRelAddr s (s.mem.read32 (const32Addr s 63))).toNat % 8 ≠ 0) :=
  ⟨by decide, by decide, ⟨by decide, by decide⟩, ⟨by decide, by decide⟩, ⟨by decide, by decide⟩, by decide,
    ⟨by decide, by decide⟩, by decide⟩

theorem witness_StoresWriteMemory :
    start.mem.wf = true ∧ fitsUnsigned 3 7 = true ∧ fitsUnsigned 6 63 = true ∧
      start.storable (regRelAddr start .r0 7) ∧ start.constReadable (const32Addr start 63) 4 ∧
      start.storable (pcRelAddr start (start.mem.read32 (const32Addr start 63))) ∧ (7 < 8 ∧ 7 < 8) ∧
      (regRelAddr (start.setReg .r0 4) .r0 7).toNat % 8 ≠ 0 ∧
      (let s := start.setPc 0x1002
       s.constReadable (const32Addr s 63) 4 ∧ (pcRelAddr s (s.mem.read32 (const32Addr s 63))).toNat % 8 ≠ 0) :=
  ⟨by decide, by decide, by decide, ⟨by decide, by decide⟩, ⟨by decide, by decide⟩, ⟨by decide, by decide⟩, by decide,
    by decide, ⟨by decide, by decide⟩, by decide⟩

theorem witness_StoreThenLoadReturnsValue :
    start.mem.wf = true ∧ ∃ t, exec (.store .r5 .r0 7) start = .next t ∧ t.loadable (regRelAddr t .r0 7) :=
  ⟨by decide, _, rfl, by decide, by decide⟩

theorem witness_MisalignedAccessRefused :
    (regRelAddr (start.setReg .r0 1) .r0 0).toNat % 8 ≠ 0 ∧
      (let s := start.setPc 0x1002
       s.constReadable (const32Addr s 0) 4 ∧ (pcRelAddr s (s.mem.read32 (const32Addr s 0))).toNat % 8 ≠ 0) ∧
      (start.setIb 0x8020).ib.toNat % 64 ≠ 0 :=
  ⟨by decide, ⟨⟨by decide, by decide⟩, by decide⟩, by decide⟩

/-- A map whose first 16 bytes are of one kind, in front of the flat one. -/
def low (r w : Bool) (kind : RegionKind) : MemoryMap := ⟨0, 16, r, w, kind⟩ :: MemoryMap.flat

/-- Eight bytes of which only the last is code (address 16 to 23 with code from 23 on), and constants. -/
theorem witness_StoreToCodeOrConstRefused :
    7 < 8 ∧
      (let s := mapped (⟨23, 8, true, false, .code⟩ :: MemoryMap.flat) start
       (regRelAddr s .r0 2).toNat % 8 = 0 ∧
        s.params.memoryMap.codeOrConst (regRelAddr s .r0 2 + BitVec.ofNat 64 7).toNat = true) ∧
      (let s := mapped (⟨0x1000, 64, true, false, .const⟩ :: MemoryMap.flat) start
       s.constReadable (const32Addr s 0) 4 ∧ (pcRelAddr s (s.mem.read32 (const32Addr s 0))).toNat % 8 = 0 ∧
        s.params.memoryMap.codeOrConst
          (pcRelAddr s (s.mem.read32 (const32Addr s 0)) + BitVec.ofNat 64 7).toNat = true) :=
  ⟨by decide, ⟨by decide, by decide⟩, ⟨by decide, by decide⟩, by decide, by decide⟩

/-- The six clauses in order; the last two for both addressing modes. -/
theorem witness_NotAdmittedHasNoStep :
    (start.setPc 0x1001).pc.toNat % 2 = 1 ∧
      (let s := (mapped (low false true .data) start).setPc 14
       s.pc.toNat % 2 = 0 ∧ 1 < 2 ∧ s.params.memoryMap.readable (s.pc + BitVec.ofNat 64 1).toNat = false) ∧
      (let s := (mapped (low false true .data) start).setIb 0
       s.ib.toNat % 64 = 0 ∧ s.params.memoryMap.readable (const64Addr s 1 + BitVec.ofNat 64 7).toNat = false) ∧
      (let s := (mapped (low false true .data) start).setIb 0
       s.ib.toNat % 64 = 0 ∧ s.params.memoryMap.readable (const32Addr s 3 + BitVec.ofNat 64 3).toNat = false) ∧
      (let s := (mapped (low false true .data) start).setPc 8
       (8 : Word).toNat % 8 = 0 ∧ s.params.memoryMap.readable ((8 : Word) + BitVec.ofNat 64 7).toNat = false ∧
        8 = regRelAddr s .r0 1 ∧ s.constReadable (const32Addr s 0) 4 ∧
        8 = pcRelAddr s (s.mem.read32 (const32Addr s 0))) ∧
      (let s := (mapped (low true false .data) start).setPc 8
       (8 : Word).toNat % 8 = 0 ∧ s.params.memoryMap.writable ((8 : Word) + BitVec.ofNat 64 7).toNat = false ∧
        (∀ j : Nat, j < 8 → s.params.memoryMap.codeOrConst ((8 : Word) + BitVec.ofNat 64 j).toNat = false) ∧
        8 = regRelAddr s .r0 1 ∧ s.constReadable (const32Addr s 0) 4 ∧
        8 = pcRelAddr s (s.mem.read32 (const32Addr s 0))) :=
  ⟨by decide, by decide, by decide, by decide,
    ⟨by decide, by decide, by decide, ⟨by decide, by decide⟩, by decide⟩,
    ⟨by decide, by decide, by decide, by decide, ⟨by decide, by decide⟩, by decide⟩⟩

/-- The five clauses in order; the last two for both addressing modes. -/
theorem witness_DeviceAccessRefused :
    (let s := (mapped (low true true .device) start).setPc 14
     s.pc.toNat % 2 = 0 ∧ s.params.memoryMap.allReadable s.pc 2 = true ∧ 1 < 2 ∧
      s.params.memoryMap.device (s.pc + BitVec.ofNat 64 1).toNat = true) ∧
    (let s := (mapped (low true true .device) start).setIb 0
     s.ib.toNat % 64 = 0 ∧ s.params.memoryMap.allReadable (const64Addr s 1) 8 = true ∧
      s.params.memoryMap.device (const64Addr s 1 + BitVec.ofNat 64 7).toNat = true) ∧
    (let s := (mapped (low true true .device) start).setIb 0
     s.ib.toNat % 64 = 0 ∧ s.params.memoryMap.allReadable (const32Addr s 3) 4 = true ∧
      s.params.memoryMap.device (const32Addr s 3 + BitVec.ofNat 64 3).toNat = true) ∧
    (let s := (mapped (low true true .device) start).setPc 8
     (8 : Word).toNat % 8 = 0 ∧ s.params.memoryMap.device ((8 : Word) + BitVec.ofNat 64 7).toNat = true ∧
      s.params.memoryMap.allReadable 8 8 = true ∧ s.params.memoryMap.anyCodeOrConst 8 8 = false ∧
      s.params.memoryMap.allWritable 8 8 = true ∧ 8 = regRelAddr s .r0 1 ∧ s.constReadable (const32Addr s 0) 4 ∧
      8 = pcRelAddr s (s.mem.read32 (const32Addr s 0))) :=
  ⟨by decide, by decide, by decide,
    ⟨by decide, by decide, by decide, by decide, by decide, by decide, ⟨by decide, by decide⟩, by decide⟩⟩

theorem witness_ConditionalMove : (start.setFlag true).flag = true ∧ start.flag = false := by decide

/-- A packet whose size field is 01 at `pc`. -/
theorem witness_LongerLengthRefused :
    let s := start.withFetchWord 16 0x0001
    isAligned s.pc 2 = true ∧ s.params.memoryMap.admitsRead s.pc 2 = true ∧
      (s.mem.read s.pc.toNat).toNat % 4 ≠ 0 := by decide

/-- Zero, the top bit alone, and bit 0 alone. -/
theorem witness_LogicCtz :
    start.reg .r6 = 0 ∧
      (let s := start.setReg .r6 0x8000000000000000
       63 < 64 ∧ (s.reg .r6).getLsbD 63 = true ∧ ∀ j : Nat, j < 63 → (s.reg .r6).getLsbD j = false) ∧
      (start.setReg .r6 1 |>.reg .r6).getLsbD 0 = true := by decide

theorem witness_LogicClz :
    start.reg .r6 = 0 ∧
      (let s := start.setReg .r6 1
       0 < 64 ∧ (s.reg .r6).getLsbD 0 = true ∧ ∀ j : Nat, j < 64 → 0 < j → (s.reg .r6).getLsbD j = false) ∧
      (start.setReg .r6 0x8000000000000000 |>.reg .r6).getLsbD 63 = true := by decide

/-- The default width, and the bounds of the parameter. -/
theorem witness_LogicSext :
    start.params.wf = true ∧ ({ start.params with sextSrcBits := 1 } : Params).wf = true ∧
      ({ start.params with sextSrcBits := 64 } : Params).wf = true := by decide

/-- A distance of 63; one of 64 under `mask6`; one of 64 under `saturate`. -/
theorem witness_RegisterShifts :
    (start.setReg .r6 63 |>.reg .r6).toNat < 64 ∧
      (64 ≤ (start.setReg .r6 64 |>.reg .r6).toNat ∧ start.params.shiftAmountRule = .mask6) ∧
      (let s : State := { start.setReg .r6 64 with params := { start.params with shiftAmountRule := .saturate } }
       64 ≤ (s.reg .r6).toNat ∧ s.params.shiftAmountRule = .saturate) := by decide

/-- -2^63 by 1; 0 by 0; -2^63 by -1. -/
theorem witness_DivisionByCases :
    (let s := (start.setReg .r5 0x8000000000000000).setReg .r6 1
     s.reg .r6 ≠ 0 ∧ ¬ ((s.reg .r5).toInt = -(2 ^ 63) ∧ (s.reg .r6).toInt = -1)) ∧
      start.reg .r6 = 0 ∧
      (let s := (start.setReg .r5 0x8000000000000000).setReg .r6 0xFFFFFFFFFFFFFFFF
       (s.reg .r5).toInt = -(2 ^ 63) ∧ (s.reg .r6).toInt = -1) := by decide

theorem witness_BreakAndIllegalTrap : fitsUnsigned 9 0 = true ∧ fitsUnsigned 9 511 = true := by decide

/-- A state in which `break` has trapped, and the same with other trap registers and no trap taken: 0 as the divisor;
-2^63 by -1. -/
theorem witness_SecondTrapOverwrites :
    let s := takeTrap (.breakpoint 1) ((start.setReg .r5 0x8000000000000000).setReg .r6 0xFFFFFFFFFFFFFFFF)
    let o : State := { s with tpc := 0, tcause := 7, lastTrap := none }
    (∃ p c l, o = { s with tpc := p, tcause := c, lastTrap := l }) ∧ s.reg .r0 = 0 ∧
      (s.reg .r5).toInt = -(2 ^ 63) ∧ (s.reg .r6).toInt = -1 :=
  ⟨⟨0, 7, none, rfl⟩, by decide, by decide, by decide⟩

end Sys2Proof.Tests
end

section
/-! PROOF. The statements about the whole machine (spec/10_state.md): which instruction writes which part of the state,
and that every step keeps a legal state legal. Each follows from `exec_effect`, the one list of what `exec` can do. -/

namespace Sys2Proof.Machine

/-! ### Alignment of sums and products modulo 2^64 -/

theorem isAligned_iff_dvd {a : Word} {n : Nat} : isAligned a n = true ↔ n ∣ a.toNat := by
  rw [isAligned, beq_iff_eq, Nat.dvd_iff_mod_eq_zero]

/-- Wrapping at 2^64 loses no alignment to a power of two, so a sum of aligned words is aligned. -/
theorem isAligned_add {a b : Word} {n : Nat} (hn : n ∣ 2 ^ 64) (ha : isAligned a n = true)
    (hb : isAligned b n = true) : isAligned (a + b) n = true := by
  rw [isAligned_iff_dvd] at ha hb ⊢
  rw [BitVec.toNat_add, Nat.dvd_mod_iff hn]
  exact Nat.dvd_add ha hb

theorem isAligned_mul {a b : Word} {n : Nat} (hn : n ∣ 2 ^ 64) (hb : isAligned b n = true) :
    isAligned (a * b) n = true := by
  rw [isAligned_iff_dvd] at hb ⊢
  rw [BitVec.toNat_mul, Nat.dvd_mod_iff hn]
  exact Dvd.dvd.mul_left hb a.toNat

/-! ### Alignment of the addresses that instructions and traps move to -/

/-- The packet after an even address starts at an even address (spec/10_state.md R25). -/
theorem isAligned_add_two {a : Word} (ha : isAligned a 2 = true) : isAligned (a + 2) 2 = true :=
  isAligned_add (by norm_num) ha (by decide)

theorem isAligned_branchTarget {s : State} (d : Int) (hpc : isAligned s.pc 2 = true) :
    isAligned (branchTarget s d) 2 = true :=
  isAligned_add_two (isAligned_add (by norm_num) hpc (isAligned_mul (by norm_num) (by decide)))

theorem isAligned_blockTarget {s : State} (d : Int) (hib : isAligned s.ib 64 = true) :
    isAligned (blockTarget s d) 64 = true :=
  isAligned_add (by norm_num) hib (isAligned_mul (by norm_num) (by decide))

/-- TRAP_VECTOR is even whatever its other bits are (log 11). -/
theorem isAligned_trapVector : isAligned Config.trapVector 2 = true := by
  have hlow : Config.trapVector.toNat = Config.trapVectorPacket.toNat * 2 + 0 :=
    toNat_append_eq Config.trapVectorPacket 0#1
  rw [isAligned_iff_dvd, hlow]
  exact Dvd.intro_left _ rfl

/-! ### What every effect keeps -/

theorem Effect.isAligned_pc {i : Instr} {s t : State} (h : Effect i s t) (hpc : isAligned s.pc 2 = true) :
    isAligned t.pc 2 = true := by
  cases h with
  | trapped => exact isAligned_trapVector
  | moved p hp =>
    obtain ⟨d, rfl⟩ | rfl := hp
    · exact isAligned_branchTarget d hpc
    · exact isAligned_add_two hpc
  | linked _ _ _ _ _ _ hp _ => exact hp
  | returned _ _ _ _ _ hp _ => exact hp
  | wrote | blockMoved | stored | compared => exact isAligned_add_two hpc

theorem Effect.isAligned_ib {i : Instr} {s t : State} (h : Effect i s t) (hib : isAligned s.ib 64 = true) :
    isAligned t.ib 64 = true := by
  cases h with
  | blockMoved d _ => exact isAligned_blockTarget d hib
  | linked _ _ _ _ _ _ _ hb => exact hb
  | returned _ _ _ _ _ _ hb => exact hb
  | wrote | trapped | moved | stored | compared => exact hib

theorem Effect.mem_wf {i : Instr} {s t : State} (h : Effect i s t) (hm : s.mem.wf = true) : t.mem.wf = true := by
  cases h with
  | stored a v _ => exact Memory.write64_wf a v hm
  | wrote | trapped | moved | blockMoved | linked | returned | compared => exact hm

theorem Effect.params {i : Instr} {s t : State} (h : Effect i s t) : t.params = s.params := by
  cases h <;> rfl

theorem Effect.legal {i : Instr} {s t : State} (h : Effect i s t) (hs : s.Legal) : t.Legal := by
  obtain ⟨hpc, hib, hmem, hparams⟩ := hs
  exact ⟨h.isAligned_pc hpc, h.isAligned_ib hib, h.mem_wf hmem, h.params ▸ hparams⟩

/-- A step that answers a next state has the effect of some instruction. -/
theorem effect_of_step {s t : State} (h : step s = .next t) : ∃ i, Effect i s t :=
  let ⟨i, hi⟩ := exec_of_step h
  ⟨i, exec_effect hi⟩

/-- A register that a write of `rc` changes is `rc`. -/
theorem State.eq_of_reg_setReg_ne {s : State} {rc r : Reg} {v : Word} (h : (s.setReg rc v).reg r ≠ s.reg r) :
    rc = r := by
  by_contra hne
  exact h (s.reg_setReg_other v (Ne.symm hne))

/-! ### The obligations -/

/-- Settles O7: each effect keeps each part of legality. -/
theorem stepKeepsLegal : Obligations.StepKeepsLegal := by
  intro s t hs h
  obtain ⟨i, hi⟩ := effect_of_step h
  exact hi.legal hs

/-- Settles O8, by evaluation of the reset state. -/
theorem resetIsLegal : Obligations.ResetIsLegal :=
  ⟨by decide, rfl, rfl, rfl⟩

/-- Settles O9: of all effects only a comparison changes `flag`. -/
theorem flagWrittenOnlyByCompare : Obligations.FlagWrittenOnlyByCompare := by
  intro i s t h hflag
  cases exec_effect h with
  | compared rc rb _ hi => exact ⟨rc, rb, hi⟩
  | wrote | trapped | moved | blockMoved | linked | returned | stored => exact (hflag rfl).elim

/-- Settles O10: of all effects only a block jump, a link and a return change `ib`. -/
theorem immediateBaseWrittenOnlyByThree : Obligations.ImmediateBaseWrittenOnlyByThree := by
  intro i s t h hib
  cases exec_effect h with
  | blockMoved d hi => exact .inl ⟨d, hi⟩
  | linked rc u _ _ _ hi => exact .inr (.inl ⟨rc, u, hi⟩)
  | returned rc u _ _ hi => exact .inr (.inr ⟨rc, u, hi⟩)
  | wrote | trapped | moved | stored | compared => exact (hib rfl).elim

/-- Settles O11: of all effects only a store changes a byte of memory. -/
theorem memoryWrittenOnlyByStores : Obligations.MemoryWrittenOnlyByStores := by
  intro i s t h hmem
  cases exec_effect h with
  | stored _ _ hi => exact hi
  | wrote | trapped | moved | blockMoved | linked | returned | compared => exact (hmem fun _ => rfl).elim

/-- Settles O12: only a write-back and a link write a register, each its own `rc`. -/
theorem registersWrittenOnlyByDestination : Obligations.RegistersWrittenOnlyByDestination := by
  intro i s t r h hreg
  cases exec_effect h with
  | wrote rc v hi => exact State.eq_of_reg_setReg_ne hreg ▸ hi
  | linked rc u p b v hi =>
    subst hi
    exact congrArg some (State.eq_of_reg_setReg_ne (s := (s.setPc p).setIb b) hreg)
  | trapped | moved | blockMoved | returned | stored | compared => exact (hreg rfl).elim

/-- Settles O13: a trap entry is the one effect that touches the trap registers. -/
theorem trapRegistersWrittenOnlyByTraps : Obligations.TrapRegistersWrittenOnlyByTraps := by
  intro i s t h
  cases exec_effect h with
  | trapped e hi => exact .inr ⟨e, takeTrap_trapped e s, hi⟩
  | wrote | moved | blockMoved | linked | returned | stored | compared => exact .inl ⟨rfl, rfl, rfl, rfl⟩

/-- Settles O14: no effect writes a parameter. -/
theorem parametersConstant : Obligations.ParametersConstant := by
  intro s t h
  obtain ⟨i, hi⟩ := effect_of_step h
  exact hi.params

end Sys2Proof.Machine
end

section
/-! PROOF. The statements about memory as bytes (spec/20_memory.md R51 to R54, R61): a read of any width joins the
bytes, a 64-bit write splits them, each bit by bit, and the effective addresses. -/

namespace Sys2Proof.Machine

/-! ### Bit b of byte k -/

/-- Bit b of byte k of joined bytes is bit 8k + b of their number. -/
theorem joinLE_testBit (bs : List Byte) (k b : Nat) (hb : b < 8) (hk : k < bs.length) :
    (joinLE bs).testBit (8 * k + b) = bs[k].getLsbD b := by
  induction bs generalizing k with
  | nil => simp at hk
  | cons c bs ih =>
    rw [joinLE, Nat.add_comm c.toNat, show 256 = 2 ^ 8 by rfl, Nat.testBit_two_pow_mul_add _ c.isLt]
    cases k with
    | zero => simp [hb, BitVec.getLsbD]
    | succ k =>
      rw [if_neg (by omega), show 8 * (k + 1) + b - 8 = 8 * k + b by omega]
      exact ih k (by simpa using hk)

/-- Bit b of byte k of a number is its bit 8k + b. -/
theorem splitLE_getLsbD (n v k b : Nat) (hb : b < 8) (hk : k < (splitLE n v).length) :
    (splitLE n v)[k].getLsbD b = v.testBit (8 * k + b) := by
  induction n generalizing v k with
  | zero => simp [splitLE] at hk
  | succ n ih =>
    cases k with
    | zero =>
      simp only [splitLE, List.getElem_cons_zero, BitVec.getLsbD_ofNat, hb, decide_true, Bool.true_and, Nat.mul_zero,
        Nat.zero_add]
    | succ k =>
      have hbit : (v / 256).testBit (8 * k + b) = v.testBit (8 * (k + 1) + b) := by
        rw [show 256 = 2 ^ 8 by rfl, Nat.testBit_div_two_pow]
        congr 1
        omega
      simp only [splitLE, List.getElem_cons_succ]
      rw [ih _ k (by simpa [splitLE] using hk), hbit]

/-- Values of `n` bytes are equal when each bit of each byte is. -/
theorem eq_of_byte_bits {n : Nat} {x y : BitVec (8 * n)}
    (h : ∀ k b : Nat, k < n → b < 8 → x.getLsbD (8 * k + b) = y.getLsbD (8 * k + b)) : x = y := by
  refine BitVec.eq_of_getLsbD_eq fun i hi => ?_
  have hbit := h (i / 8) (i % 8) (by omega) (by omega)
  rwa [Nat.div_add_mod] at hbit

/-! ### Reads and writes, bit by bit -/

/-- Bit b of byte k of a read of `n` bytes is bit b of the byte at `a + k` (spec/20_memory.md R51). -/
theorem Memory.getLsbD_joinLE_readBytes (m : Memory) (a : Word) {n k b : Nat} (hk : k < n) (hb : b < 8) :
    (BitVec.ofNat (8 * n) (joinLE (m.readBytes a n))).getLsbD (8 * k + b) =
      (m.read (a + BitVec.ofNat 64 k).toNat).getLsbD b := by
  have hlen : k < (m.readBytes a n).length := by rwa [Memory.readBytes_length]
  rw [BitVec.getLsbD_ofNat, decide_eq_true (by omega), Bool.true_and, joinLE_testBit _ k b hb hlen,
    Memory.readBytes_getElem]

/-- Bit b of the byte at `a + k` after a 64-bit write at `a` is bit 8k + b of the value (spec/20_memory.md R52). -/
theorem Memory.getLsbD_read_write64 {m : Memory} (a v : Word) (hm : m.wf = true) {k b : Nat} (hk : k < 8)
    (hb : b < 8) : ((m.write64 a v).read (a + BitVec.ofNat 64 k).toNat).getLsbD b = v.getLsbD (8 * k + b) := by
  have hlen : k < (splitLE 8 v.toNat).length := by rwa [splitLE_length]
  rw [Memory.write64, Memory.read_writeBytes_inside _ a hm (by simp) k hlen, splitLE_getLsbD _ _ k b hb hlen]
  rfl

/-- A 64-bit write at `a` leaves every byte outside `a` to `a + 7` as it was (spec/20_memory.md R52). -/
theorem Memory.read_write64_outside (m : Memory) (a v : Word) (x : Nat)
    (hx : ∀ k : Nat, k < 8 → x ≠ (a + BitVec.ofNat 64 k).toNat) : (m.write64 a v).read x = m.read x :=
  Memory.read_writeBytes_outside _ m a x (by simpa using hx)

/-- The 64-bit value written is read back. -/
theorem Memory.read64_write64 {m : Memory} (a v : Word) (hm : m.wf = true) : (m.write64 a v).read64 a = v := by
  refine eq_of_byte_bits (n := 8) fun k b hk hb => ?_
  rw [Memory.read64, Memory.getLsbD_joinLE_readBytes _ a hk hb, Memory.getLsbD_read_write64 a v hm hk hb]

/-- A 32-bit read j bytes into a quad sees its 32 bits from 8j on (spec/20_memory.md R54). -/
theorem Memory.read32_write64 {m : Memory} (a v : Word) (hm : m.wf = true) (j : Nat) (hj : j ≤ 4) :
    (m.write64 a v).read32 (a + BitVec.ofNat 64 j) = v.extractLsb' (8 * j) 32 := by
  refine eq_of_byte_bits (n := 4) fun k b hk hb => ?_
  rw [Memory.read32, Memory.getLsbD_joinLE_readBytes _ _ hk hb, BitVec.add_assoc, ← BitVec.ofNat_add,
    Memory.getLsbD_read_write64 a v hm (by omega) hb, BitVec.getLsbD_extractLsb', decide_eq_true (by omega),
    Bool.true_and]
  congr 1
  omega

theorem Memory.read32_write64_low {m : Memory} (a v : Word) (hm : m.wf = true) :
    (m.write64 a v).read32 a = vecPc v := by
  simpa [vecPc] using Memory.read32_write64 a v hm 0 (by omega)

theorem Memory.read32_write64_high {m : Memory} (a v : Word) (hm : m.wf = true) :
    (m.write64 a v).read32 (a + 4) = vecIb v :=
  Memory.read32_write64 a v hm 4 (by omega)

/-! ### Effective addresses -/

/-- A base plus a scaled immediate is the sum modulo 2^64 (spec/20_memory.md R61). -/
theorem toNat_add_unsignedImm_mul (x : Word) (u c : Nat) :
    (x + unsignedImm u * BitVec.ofNat 64 c).toNat = (x.toNat + u * c) % 2 ^ 64 := by
  simp [unsignedImm]

/-- An aligned access of a size that divides 2^64 ends at or below 2^64 (spec/20_memory.md R61). -/
theorem toNat_add_le_of_isAligned {a : Word} {n : Nat} (hn : n ∣ 2 ^ 64) (ha : isAligned a n = true) :
    a.toNat + n ≤ 2 ^ 64 := by
  have hlt : a.toNat < 2 ^ 64 := a.isLt
  have hroom : n ∣ 2 ^ 64 - a.toNat := Nat.dvd_sub hn (isAligned_iff_dvd.mp ha)
  have hle : n ≤ 2 ^ 64 - a.toNat := Nat.le_of_dvd (by omega) hroom
  omega

/-! ### The obligations -/

/-- Settles O17: the bytes written are those of the value, and no others are. -/
theorem memWriteLittleEndian : Obligations.MemWriteLittleEndian := fun m a v hm =>
  ⟨fun _ _ hk hb => Memory.getLsbD_read_write64 a v hm hk hb, Memory.read_write64_outside m a v⟩

/-- Settles O18: a 32-bit read is the four bytes of the quad from its address on. -/
theorem mixedWidthReads : Obligations.MixedWidthReads := by
  intro m a v hm
  have hlow := Memory.read32_write64_low a v hm
  have hhigh := Memory.read32_write64_high a v hm
  exact ⟨Memory.read64_write64 a v hm, hlow ▸ vecPc_toNat v, hhigh ▸ vecIb_toNat v, hlow, hhigh⟩

/-- Settles O16, each width from the general read of n bytes. -/
theorem memReadLittleEndian : Obligations.MemReadLittleEndian := fun m a _ _ hb =>
  ⟨fun hk => m.getLsbD_joinLE_readBytes a (n := 2) hk hb, fun hk => m.getLsbD_joinLE_readBytes a (n := 4) hk hb,
    fun hk => m.getLsbD_joinLE_readBytes a (n := 8) hk hb⟩

/-- Settles O19: each address is a sum of words, and 2, 4 and 8 divide 2^64. -/
theorem effectiveAddresses : Obligations.EffectiveAddresses := by
  intro s rb u c
  refine ⟨toNat_add_unsignedImm_mul s.ib u 8, toNat_add_unsignedImm_mul s.ib u 4, toNat_add_signExtend s.pc c,
    toNat_add_unsignedImm_mul (s.reg rb) u 8, fun a n hn ha => toNat_add_le_of_isAligned ?_ ha⟩
  simp only [List.mem_cons, List.not_mem_nil, or_false] at hn
  obtain rfl | rfl | rfl := hn <;> norm_num

end Sys2Proof.Machine
end

section
/-! PROOF. The step as fetch, decode and execute (spec/60_exceptions.md R248), and how an access that may not be made
stops its instruction (spec/20_memory.md R56, R59, R60, R66). An instruction begins with its checks: what stops the
first of them stops the instruction (`BeginsWith`). -/

namespace Sys2Proof.Machine

/-! ### What an instruction begins with -/

/-- `y` is `x` followed by something, so that a fault or a refusal of `x` is one of `y`. -/
def BeginsWith {α β : Type} (y : Result β) (x : Result α) : Prop := ∃ f, y = andThen x f

theorem andThen_assoc {α β γ : Type} (x : Result α) (f : α → Result β) (g : β → Result γ) :
    andThen (andThen x f) g = andThen x fun a => andThen (f a) g := by
  cases x <;> rfl

theorem beginsWith_andThen {α β : Type} (x : Result α) (f : α → Result β) : BeginsWith (andThen x f) x := ⟨f, rfl⟩

theorem BeginsWith.trans {α β γ : Type} {z : Result γ} {y : Result β} {x : Result α} (hz : BeginsWith z y)
    (hy : BeginsWith y x) : BeginsWith z x := by
  obtain ⟨g, rfl⟩ := hz
  obtain ⟨f, rfl⟩ := hy
  exact ⟨_, andThen_assoc x f g⟩

theorem BeginsWith.fault {α β : Type} {y : Result β} {x : Result α} {r : Fault} (h : BeginsWith y x)
    (hx : x = .fault r) : y = .fault r := by
  obtain ⟨f, rfl⟩ := h
  rw [hx, andThen_of_fault]

theorem BeginsWith.refused {α β : Type} {y : Result β} {x : Result α} {r : Refusal} (h : BeginsWith y x)
    (hx : x = .refused r) : y = .refused r := by
  obtain ⟨f, rfl⟩ := h
  rw [hx, andThen_of_refused]

/-! ### The bytes of an access -/

theorem isAligned_iff_mod {a : Word} {n : Nat} : isAligned a n = true ↔ a.toNat % n = 0 := beq_iff_eq

theorem isAligned_eq_false_iff {a : Word} {n : Nat} : isAligned a n = false ↔ a.toNat % n ≠ 0 := beq_eq_false_iff_ne

theorem byteAddrs_any {p : Nat → Bool} {a : Word} {n k : Nat} (hk : k < n)
    (h : p (a + BitVec.ofNat 64 k).toNat = true) : (byteAddrs a n).any p = true :=
  List.any_eq_true.mpr ⟨_, List.mem_map_of_mem (List.mem_range.mpr hk), h⟩

theorem byteAddrs_all_eq_false {p : Nat → Bool} {a : Word} {n k : Nat} (hk : k < n)
    (h : p (a + BitVec.ofNat 64 k).toNat = false) : (byteAddrs a n).all p = false :=
  List.all_eq_false.mpr ⟨_, List.mem_map_of_mem (List.mem_range.mpr hk), Bool.eq_false_iff.mp h⟩

theorem byteAddrs_any_eq_false {p : Nat → Bool} {a : Word} {n : Nat}
    (h : ∀ k : Nat, k < n → p (a + BitVec.ofNat 64 k).toNat = false) : (byteAddrs a n).any p = false := by
  simpa [byteAddrs] using h

/-! ### How a check fails, in the order of log 8 -/

section Checks

variable {s : State} {a : Word} {n k : Nat}

theorem checkRead_of_not_readable {kind : AccessKind} (hk : k < n)
    (h : s.params.memoryMap.readable (a + BitVec.ofNat 64 k).toNat = false) :
    checkRead kind s a n = .fault (.notAdmitted kind a) := by
  have hall : s.params.memoryMap.allReadable a n = false := byteAddrs_all_eq_false hk h
  simp [checkRead, hall]

theorem checkRead_of_device {kind : AccessKind} (hall : s.params.memoryMap.allReadable a n = true) (hk : k < n)
    (h : s.params.memoryMap.device (a + BitVec.ofNat 64 k).toNat = true) :
    checkRead kind s a n = .refused (.deviceAccess kind a) := by
  have hdev : s.params.memoryMap.anyDevice a n = true := byteAddrs_any hk h
  simp [checkRead, hall, hdev]

theorem checkWrite_of_codeOrConst (hk : k < n)
    (h : s.params.memoryMap.codeOrConst (a + BitVec.ofNat 64 k).toNat = true) :
    checkWrite s a n = .refused (.storeToCodeOrConst a) := by
  have hcode : s.params.memoryMap.anyCodeOrConst a n = true := byteAddrs_any hk h
  simp [checkWrite, hcode]

theorem checkWrite_of_not_writable (hcode : s.params.memoryMap.anyCodeOrConst a n = false) (hk : k < n)
    (h : s.params.memoryMap.writable (a + BitVec.ofNat 64 k).toNat = false) :
    checkWrite s a n = .fault (.notAdmitted .store a) := by
  have hall : s.params.memoryMap.allWritable a n = false := byteAddrs_all_eq_false hk h
  simp [checkWrite, hcode, hall]

theorem checkWrite_of_device (hcode : s.params.memoryMap.anyCodeOrConst a n = false)
    (hall : s.params.memoryMap.allWritable a n = true) (hk : k < n)
    (h : s.params.memoryMap.device (a + BitVec.ofNat 64 k).toNat = true) :
    checkWrite s a n = .refused (.deviceAccess .store a) := by
  have hdev : s.params.memoryMap.anyDevice a n = true := byteAddrs_any hk h
  simp [checkWrite, hcode, hall, hdev]

end Checks

/-! ### The accesses: refused where misaligned, else they begin with their check -/

section Accesses

variable {s : State} {a v : Word} {n : Nat}

theorem fetch_of_odd (h : s.pc.toNat % 2 = 1) : fetch s = .fault .oddPc := by
  have hodd : isAligned s.pc 2 = false := isAligned_eq_false_iff.mpr (by omega)
  simp [fetch, hodd]

theorem fetch_beginsWith (h : s.pc.toNat % 2 = 0) : BeginsWith (fetch s) (checkRead .fetch s s.pc 2) := by
  rw [fetch, if_pos (isAligned_iff_mod.mpr h)]
  exact beginsWith_andThen _ _

theorem checkConst_of_misaligned (h : s.ib.toNat % 64 ≠ 0) : checkConst s a n = .refused (.misalignedAccess a) := by
  simp [checkConst, isAligned_eq_false_iff.mpr h]

theorem checkConst_of_aligned (h : s.ib.toNat % 64 = 0) : checkConst s a n = checkRead .const s a n :=
  if_pos (isAligned_iff_mod.mpr h)

theorem loadData_of_misaligned (h : a.toNat % 8 ≠ 0) : loadData s a = .refused (.misalignedAccess a) := by
  simp [loadData, isAligned_eq_false_iff.mpr h]

theorem loadData_beginsWith (h : a.toNat % 8 = 0) : BeginsWith (loadData s a) (checkRead .load s a 8) := by
  rw [loadData, if_pos (isAligned_iff_mod.mpr h)]
  exact beginsWith_andThen _ _

theorem storeData_of_misaligned (h : a.toNat % 8 ≠ 0) : storeData s a v = .refused (.misalignedAccess a) := by
  simp [storeData, isAligned_eq_false_iff.mpr h]

theorem storeData_beginsWith (h : a.toNat % 8 = 0) : BeginsWith (storeData s a v) (checkWrite s a 8) := by
  rw [storeData, if_pos (isAligned_iff_mod.mpr h)]
  exact beginsWith_andThen _ _

end Accesses

/-! ### The instructions: each begins with its access -/

section Instructions

variable {s : State} {a : Word} {rc rb : Reg} {u : Nat}

theorem step_beginsWith (s : State) : BeginsWith (step s) (fetch s) := beginsWith_andThen _ _

/-- The step from a fetched packet is `exec` of the instruction it decodes to (spec/60_exceptions.md R248). -/
theorem step_of_fetch {w : Packet} (h : fetch s = .next w) : step s = exec (decodePacket w) s := by
  rw [step, h, andThen_of_next]

theorem readConst64_beginsWith : BeginsWith (readConst64 s a) (checkConst s a 8) := beginsWith_andThen _ _

theorem readConst32_beginsWith : BeginsWith (readConst32 s a) (checkConst s a 4) := beginsWith_andThen _ _

/-- The readers of a 64-bit constant begin with the check of that constant. -/
theorem exec_beginsWith_checkConst64 {i : Instr} (hi : i ∈ [Instr.jalib rc u, .jtlib rc u, .movib rc u]) :
    BeginsWith (exec i s) (checkConst s (const64Addr s u) 8) := by
  refine BeginsWith.trans ?_ readConst64_beginsWith
  simp only [List.mem_cons, List.not_mem_nil, or_false] at hi
  obtain rfl | rfl | rfl := hi <;> exact beginsWith_andThen _ _

/-- The readers of a 32-bit constant begin with the check of that constant. -/
theorem exec_beginsWith_checkConst32 {i : Instr}
    (hi : i ∈ [Instr.addib rc u, .leapc rc u, .loadpc rc u, .storepc rc u]) :
    BeginsWith (exec i s) (checkConst s (const32Addr s u) 4) := by
  refine BeginsWith.trans ?_ readConst32_beginsWith
  simp only [List.mem_cons, List.not_mem_nil, or_false] at hi
  obtain rfl | rfl | rfl | rfl := hi <;> exact beginsWith_andThen _ _

theorem exec_load_beginsWith (ha : a = regRelAddr s rb u) : BeginsWith (exec (.load rc rb u) s) (loadData s a) := by
  subst ha
  exact beginsWith_andThen _ _

theorem exec_store_beginsWith (ha : a = regRelAddr s rb u) :
    BeginsWith (exec (.store rc rb u) s) (storeData s a (s.reg rc)) := by
  subst ha
  exact beginsWith_andThen _ _

/-- Where its constant may be read, `loadpc` comes down to its load. -/
theorem exec_loadpc_beginsWith (hc : s.constReadable (const32Addr s u) 4)
    (ha : a = pcRelAddr s (s.mem.read32 (const32Addr s u))) :
    BeginsWith (exec (.loadpc rc u) s) (loadData s a) := by
  subst ha
  rw [exec, execLoadpc, readConst32_eq_next.mpr ⟨hc, rfl⟩, andThen_of_next]
  exact beginsWith_andThen _ _

/-- Where its constant may be read, `storepc` comes down to its store. -/
theorem exec_storepc_beginsWith (hc : s.constReadable (const32Addr s u) 4)
    (ha : a = pcRelAddr s (s.mem.read32 (const32Addr s u))) :
    BeginsWith (exec (.storepc rc u) s) (storeData s a (s.reg rc)) := by
  subst ha
  rw [exec, execStorepc, readConst32_eq_next.mpr ⟨hc, rfl⟩, andThen_of_next]
  exact beginsWith_andThen _ _

end Instructions

/-! ### The obligations -/

/-- Settles O6: the packet fetched is the two bytes at `pc`. -/
theorem stepRunsDecodedInstruction : Obligations.StepRunsDecodedInstruction := by
  intro s i hpc hmap hdec _
  have hi : decodePacket (packetOfBytes (s.mem.read s.pc.toNat) (s.mem.read (s.pc + 1).toNat)) = i := by
    injection hdec
  rw [step_of_fetch (fetch_eq_next.mpr ⟨hpc, hmap, rfl⟩), Memory.read16_eq_packetOfBytes, hi]

/-- Settles O36: the access that each instruction begins with is refused. -/
theorem misalignedAccessRefused : Obligations.MisalignedAccessRefused := by
  intro rc rb u s
  refine ⟨fun a ha hmis => ?_, fun hc a ha hmis => ?_, fun hib => ⟨fun i hi => ?_, fun i hi => ?_⟩⟩
  · exact ⟨(exec_load_beginsWith ha).refused (loadData_of_misaligned hmis),
      (exec_store_beginsWith ha).refused (storeData_of_misaligned hmis)⟩
  · exact ⟨(exec_loadpc_beginsWith hc ha).refused (loadData_of_misaligned hmis),
      (exec_storepc_beginsWith hc ha).refused (storeData_of_misaligned hmis)⟩
  · exact (exec_beginsWith_checkConst64 hi).refused (checkConst_of_misaligned hib)
  · exact (exec_beginsWith_checkConst32 hi).refused (checkConst_of_misaligned hib)

/-- Settles O37: the check of code and constants is the first one of an aligned store. -/
theorem storeToCodeOrConstRefused : Obligations.StoreToCodeOrConstRefused := by
  intro rc rb u k s hk
  refine ⟨fun a ha hal hcode => ?_, fun hc a ha hal hcode => ?_⟩
  · exact ((exec_store_beginsWith ha).trans (storeData_beginsWith hal)).refused (checkWrite_of_codeOrConst hk hcode)
  · exact ((exec_storepc_beginsWith hc ha).trans (storeData_beginsWith hal)).refused
      (checkWrite_of_codeOrConst hk hcode)

/-- Settles O38: one byte that is not admitted fails the check of its access. -/
theorem notAdmittedHasNoStep : Obligations.NotAdmittedHasNoStep := by
  intro rc rb u k s
  refine ⟨fun hodd => ?_, fun hpc hk hr => ?_, fun hib hk hr i hi => ?_, fun hib hk hr i hi => ?_,
    fun a hal hk hr => ?_, fun a hal hk hw hcode => ?_⟩
  · exact (step_beginsWith s).fault (fetch_of_odd hodd)
  · exact ((step_beginsWith s).trans (fetch_beginsWith hpc)).fault (checkRead_of_not_readable hk hr)
  · exact (exec_beginsWith_checkConst64 hi).fault ((checkConst_of_aligned hib).trans (checkRead_of_not_readable hk hr))
  · exact (exec_beginsWith_checkConst32 hi).fault ((checkConst_of_aligned hib).trans (checkRead_of_not_readable hk hr))
  · have hload := (loadData_beginsWith hal).fault (checkRead_of_not_readable hk hr)
    exact ⟨fun ha => (exec_load_beginsWith ha).fault hload, fun hc ha => (exec_loadpc_beginsWith hc ha).fault hload⟩
  · have hcheck := checkWrite_of_not_writable (byteAddrs_any_eq_false hcode) hk hw
    have hstore := (storeData_beginsWith (v := s.reg rc) hal).fault hcheck
    exact ⟨fun ha => (exec_store_beginsWith ha).fault hstore,
      fun hc ha => (exec_storepc_beginsWith hc ha).fault hstore⟩

/-- Settles O39: where the map admits every byte, one byte of a device fails the check of its access. -/
theorem deviceAccessRefused : Obligations.DeviceAccessRefused := by
  intro rc rb u k s
  refine ⟨fun hpc hall hk hdev => ?_, fun hib hall hk hdev i hi => ?_, fun hib hall hk hdev i hi => ?_,
    fun a hal hk hdev hall => ?_, fun a hal hk hdev hcode hall => ?_⟩
  · exact ((step_beginsWith s).trans (fetch_beginsWith hpc)).refused (checkRead_of_device hall hk hdev)
  · exact (exec_beginsWith_checkConst64 hi).refused
      ((checkConst_of_aligned hib).trans (checkRead_of_device hall hk hdev))
  · exact (exec_beginsWith_checkConst32 hi).refused
      ((checkConst_of_aligned hib).trans (checkRead_of_device hall hk hdev))
  · have hload := (loadData_beginsWith hal).refused (checkRead_of_device hall hk hdev)
    exact ⟨fun ha => (exec_load_beginsWith ha).refused hload,
      fun hc ha => (exec_loadpc_beginsWith hc ha).refused hload⟩
  · have hstore := (storeData_beginsWith (v := s.reg rc) hal).refused (checkWrite_of_device hcode hall hk hdev)
    exact ⟨fun ha => (exec_store_beginsWith ha).refused hstore,
      fun hc ha => (exec_storepc_beginsWith hc ha).refused hstore⟩

end Sys2Proof.Machine
end

section
/-! PROOF. The statements about the encoding (spec/30_encoding.md): the decoder and the encoder are inverse to each
other, every packet belongs to one row of the opcode map, the fields of a longer instruction are numbers whose digits
are the fields of its packets; and what the swapped comparisons and the heads of the longer lengths do. -/

namespace Sys2Proof.Machine

open Sys2Proof.Laws

/-! ### The fields of a packet as numbers (spec/30_encoding.md R81, R90) -/

theorem packetSize_toNat (w : Packet) : (packetSize w).toNat = w.toNat % 2 ^ 2 := by
  rw [packetSize, BitVec.extractLsb'_toNat, Nat.shiftRight_zero]

theorem packetOpcode_toNat (w : Packet) : (packetOpcode w).toNat = w.toNat / 2 ^ 2 % 2 ^ 5 := by
  rw [packetOpcode, BitVec.extractLsb'_toNat, Nat.shiftRight_eq_div_pow]

theorem packetOperand_toNat (w : Packet) : (packetOperand w).toNat = w.toNat / 2 ^ 7 % 2 ^ 9 := by
  rw [packetOperand, BitVec.extractLsb'_toNat, Nat.shiftRight_eq_div_pow]

theorem packetImm3_toNat (w : Packet) : (packetImm3 w).toNat = w.toNat / 2 ^ 7 % 2 ^ 3 := by
  rw [packetImm3, BitVec.extractLsb'_toNat, Nat.shiftRight_eq_div_pow]

/-- The size field lies in the byte at the lower address. -/
theorem packetSize_packetOfBytes_toNat (lo hi : Byte) : (packetSize (packetOfBytes lo hi)).toNat = lo.toNat % 4 := by
  rw [packetSize_toNat, packetOfBytes, toNat_append_eq]
  omega

/-! ### The size field and the length it tells (spec/30_encoding.md R85) -/

/-- The first size field of a length is the one that tells the length. -/
theorem head?_sizeFields_lengthOfSize (sz : BitVec 2) : (lengthOfSize sz).sizeFields.head? = some sz := by
  revert sz
  decide

theorem size_eq_of_lengthOfSize {sz c : BitVec 2} {l : InstrLength} {cs : List (BitVec 2)} (h : lengthOfSize sz = l)
    (hl : l.sizeFields = c :: cs) : sz = c := by
  have hhead := head?_sizeFields_lengthOfSize sz
  rw [h, hl] at hhead
  exact (Option.some.inj hhead).symm

theorem decodePacket_of_size_zero {w : Packet} (h : packetSize w = 0) : decodePacket w = decodeShort w := by
  rw [decodePacket, h]
  rfl

/-! ### The decoder reads what the encoder packs -/

theorem decode_packetBytes (w : Packet) : decode (packetBytes w) = .ok (decodePacket w) [] := by
  rw [packetBytes, decode, packetOfBytes_packetBytes]

theorem decodePacket_packHead (rest : BitVec 14) :
    decodePacket (packHead rest 0b01#2) = .reserved32 rest.toNat ∧
      decodePacket (packHead rest 0b10#2) = .reserved64 rest.toNat ∧
      decodePacket (packHead rest 0b11#2) = .reserved128 rest.toNat := by
  simp [decodePacket, lengthOfSize]

/-- The cases are grouped by form and by how the form's immediate is read: the laws of the form give its fields back,
and an immediate that fits its field comes back as the integer it was. -/
theorem decodePacket_encodePacket {i : Instr} (hi : i.WellFormed) : decodePacket (encodePacket i) = i := by
  cases i with
  | brk u | illegal u => simp [encodePacket, decodePacket_of_size_zero, decodeShort, toNat_ofNat_of_fits hi]
  | j d | b d | ibj d => simp [encodePacket, decodePacket_of_size_zero, decodeShort, toInt_ofInt_of_fits hi]
  | jalib _ u | jtlib _ u | movib _ u | srli _ u | srai _ u | slli _ u | addib _ u | leapc _ u | loadpc _ u
  | storepc _ u => simp [encodePacket, decodePacket_of_size_zero, decodeShort, toNat_ofNat_of_fits hi]
  | movi _ d | addi _ d => simp [encodePacket, decodePacket_of_size_zero, decodeShort, toInt_ofInt_of_fits hi]
  | load _ _ u | store _ _ u =>
    simp [encodePacket, decodePacket_of_size_zero, decodeShort, toNat_ofNat_of_fits hi]
  | compareLt | compareGe | compareEq | compareNe | compareLtu | compareGeu | compareMov | compareReserved =>
    simp [encodePacket, decodePacket_of_size_zero, decodeShort, decodeCompare]
  | logicMov | logicNot | logicNeg | logicBswap | logicCtz | logicClz | logicCtpop | logicSext =>
    simp [encodePacket, decodePacket_of_size_zero, decodeShort, decodeLogic]
  | pin | and | or | xor | add | srl | sra | sll | sub | mul | div =>
    simp [encodePacket, decodePacket_of_size_zero, decodeShort]
  | reserved32 n | reserved64 n | reserved128 n =>
    simp [encodePacket, decodePacket_packHead, toNat_ofNat_of_fits hi]

/-! ### A packet is packed from its own fields (spec/30_encoding.md R88 to R91) -/

section Fields

variable {w : Packet} {op : BitVec 5}

theorem packI9_of_fields (hsz : packetSize w = 0) (hop : (packetOpcode w).toNat = op.toNat) :
    packI9 (packetOperand w) op = w := by
  rw [packI9, ← BitVec.eq_of_toNat_eq hop, ← show packetSize w = 0b00#2 from hsz, packetOperand, packetOpcode,
    packetSize, BitVec.extractLsb'_append_extractLsb'_eq_extractLsb' (by rfl),
    BitVec.extractLsb'_append_extractLsb'_eq_extractLsb' (by rfl)]
  exact BitVec.extractLsb'_eq_self

/-- Form RI6 splits the operand into a register and an immediate. -/
theorem packetRc_append_packetImm6 (w : Packet) : (packetRc w).toBits ++ packetImm6 w = packetOperand w := by
  rw [packetRc, Reg.toBits_ofBits]
  exact BitVec.extractLsb'_append_extractLsb'_eq_extractLsb' rfl

/-- Form RRI3 splits the operand into two registers and an immediate. -/
theorem packetRc_append_packetRb_append_packetImm3 (w : Packet) :
    (packetRc w).toBits ++ (packetRb w).toBits ++ packetImm3 w = packetOperand w := by
  rw [packetRc, packetRb, Reg.toBits_ofBits, Reg.toBits_ofBits,
    BitVec.extractLsb'_append_extractLsb'_eq_extractLsb' (by rfl)]
  exact BitVec.extractLsb'_append_extractLsb'_eq_extractLsb' rfl

theorem packRI6_of_fields (hsz : packetSize w = 0) (hop : (packetOpcode w).toNat = op.toNat) :
    packRI6 (packetRc w) (packetImm6 w) op = w := by
  change packI9 ((packetRc w).toBits ++ packetImm6 w) op = w
  rw [packetRc_append_packetImm6, packI9_of_fields hsz hop]

theorem packRRI3_of_fields (hsz : packetSize w = 0) (hop : (packetOpcode w).toNat = op.toNat) :
    packRRI3 (packetRc w) (packetRb w) (packetImm3 w) op = w := by
  change packI9 ((packetRc w).toBits ++ (packetRb w).toBits ++ packetImm3 w) op = w
  rw [packetRc_append_packetRb_append_packetImm3, packI9_of_fields hsz hop]

/-- The third register of form RRR stands where form RRI3 has its immediate. -/
theorem packRRR_of_fields (hsz : packetSize w = 0) (hop : (packetOpcode w).toNat = op.toNat) :
    packRRR (packetRc w) (packetRb w) (packetRa w) op = w := by
  have hra : (packetRa w).toBits = packetImm3 w := Reg.toBits_ofBits _
  change packRRI3 (packetRc w) (packetRb w) (packetRa w).toBits op = w
  rw [hra, packRRI3_of_fields hsz hop]

theorem packHead_of_fields {sz : BitVec 2} (hsz : packetSize w = sz) : packHead (packetRest w) sz = w := by
  subst hsz
  exact (BitVec.extractLsb'_append_extractLsb'_eq_extractLsb' rfl).trans BitVec.extractLsb'_eq_self

end Fields

/-! ### The encoder packs what the decoder reads -/

theorem encodePacket_decodeCompare (rc rb : Reg) (fun3 : BitVec 3) :
    encodePacket (decodeCompare rc rb fun3) = packRRI3 rc rb fun3 0b10010#5 := by
  obtain ⟨k⟩ := fun3
  fin_cases k <;> rfl

theorem encodePacket_decodeLogic (rc rb : Reg) (fun3 : BitVec 3) :
    encodePacket (decodeLogic rc rb fun3) = packRRI3 rc rb fun3 0b10011#5 := by
  obtain ⟨k⟩ := fun3
  fin_cases k <;> rfl

/-- One case per opcode. Opcodes 18 and 19 select further by `fun3`, and 31 is the one left over; each other case packs
its fields in the form of its opcode. -/
theorem encodePacket_decodeShort {w : Packet} (hsz : packetSize w = 0) : encodePacket (decodeShort w) = w := by
  unfold decodeShort
  split
  case h_19 hop =>
    rw [encodePacket_decodeCompare]
    exact packRRI3_of_fields hsz hop
  case h_20 hop =>
    rw [encodePacket_decodeLogic]
    exact packRRI3_of_fields hsz hop
  case h_32 =>
    have hlt := (packetOpcode w).isLt
    have hop : (packetOpcode w).toNat = 31 := by
      simp only [imp_false] at *
      omega
    simp [encodePacket, packI9_of_fields hsz, hop]
  all_goals
    rename_i hop
    simp [encodePacket, packI9_of_fields hsz, packRI6_of_fields hsz, packRRI3_of_fields hsz, packRRR_of_fields hsz, hop]

theorem encodePacket_decodePacket (w : Packet) : encodePacket (decodePacket w) = w := by
  unfold decodePacket
  split
  case h_1 h => exact encodePacket_decodeShort (size_eq_of_lengthOfSize h rfl)
  case h_2 h | h_3 h | h_4 h =>
    rw [encodePacket, BitVec.ofNat_toNat, BitVec.setWidth_eq]
    exact packHead_of_fields (size_eq_of_lengthOfSize h rfl)

/-! ### What the decoder reads is well formed (spec/30_encoding.md R92) -/

@[simp] theorem fitsUnsigned_toNat {n : Nat} (x : BitVec n) : fitsUnsigned n x.toNat = true :=
  decide_eq_true x.isLt

@[simp] theorem fitsSigned_toInt {n : Nat} (x : BitVec n) : fitsSigned n x.toInt = true :=
  decide_eq_true ⟨BitVec.le_toInt x, BitVec.toInt_lt⟩

theorem decodeCompare_wf (rc rb : Reg) (fun3 : BitVec 3) : (decodeCompare rc rb fun3).WellFormed := by
  unfold decodeCompare
  split <;> rfl

theorem decodeLogic_wf (rc rb : Reg) (fun3 : BitVec 3) : (decodeLogic rc rb fun3).WellFormed := by
  unfold decodeLogic
  split <;> rfl

theorem decodeShort_wf (w : Packet) : (decodeShort w).WellFormed := by
  unfold decodeShort
  split
  case h_19 => exact decodeCompare_wf _ _ _
  case h_20 => exact decodeLogic_wf _ _ _
  all_goals simp [Instr.WellFormed, Instr.wf]

theorem decodePacket_wf (w : Packet) : (decodePacket w).WellFormed := by
  unfold decodePacket
  split
  case h_1 => exact decodeShort_wf w
  case h_2 | h_3 | h_4 => exact fitsUnsigned_toNat _

/-! ### The rows of the opcode map (spec/30_encoding.md R100 to R104) -/

/-- The opcode map holds the rows of the instructions and no other. -/
theorem mem_opcodeTable_iff {r : OpcodeRow} : r ∈ opcodeTable ↔ ∃ i : Instr, i.row = r := by
  constructor
  · revert r
    simp only [opcodeTable, List.forall_mem_cons, exists_apply_eq_apply, true_and, List.not_mem_nil, false_imp_iff,
      implies_true]
  · rintro ⟨i, rfl⟩
    cases i <;> simp [opcodeTable, Instr.row]

/-- The packet of every instruction matches the instruction's own row. -/
theorem tableRow_statement (i : Instr) : TableRow.Statement i := by
  cases i with
  | brk u => exact TableRow.brk u
  | j d => exact TableRow.j d
  | b d => exact TableRow.b d
  | ibj d => exact TableRow.ibj d
  | jalib rc u => exact TableRow.jalib rc u
  | jtlib rc u => exact TableRow.jtlib rc u
  | movib rc u => exact TableRow.movib rc u
  | movi rc d => exact TableRow.movi rc d
  | addi rc d => exact TableRow.addi rc d
  | srli rc u => exact TableRow.srli rc u
  | srai rc u => exact TableRow.srai rc u
  | slli rc u => exact TableRow.slli rc u
  | addib rc u => exact TableRow.addib rc u
  | leapc rc u => exact TableRow.leapc rc u
  | loadpc rc u => exact TableRow.loadpc rc u
  | storepc rc u => exact TableRow.storepc rc u
  | load rc rb u => exact TableRow.load rc rb u
  | store rc rb u => exact TableRow.store rc rb u
  | compareLt rc rb => exact TableRow.compareLt rc rb
  | compareGe rc rb => exact TableRow.compareGe rc rb
  | compareEq rc rb => exact TableRow.compareEq rc rb
  | compareNe rc rb => exact TableRow.compareNe rc rb
  | compareLtu rc rb => exact TableRow.compareLtu rc rb
  | compareGeu rc rb => exact TableRow.compareGeu rc rb
  | compareMov rc rb => exact TableRow.compareMov rc rb
  | compareReserved rc rb => exact TableRow.compareReserved rc rb
  | logicMov rc rb => exact TableRow.logicMov rc rb
  | logicNot rc rb => exact TableRow.logicNot rc rb
  | logicNeg rc rb => exact TableRow.logicNeg rc rb
  | logicBswap rc rb => exact TableRow.logicBswap rc rb
  | logicCtz rc rb => exact TableRow.logicCtz rc rb
  | logicClz rc rb => exact TableRow.logicClz rc rb
  | logicCtpop rc rb => exact TableRow.logicCtpop rc rb
  | logicSext rc rb => exact TableRow.logicSext rc rb
  | pin rc rb ra => exact TableRow.pin rc rb ra
  | and rc rb ra => exact TableRow.and rc rb ra
  | or rc rb ra => exact TableRow.or rc rb ra
  | xor rc rb ra => exact TableRow.xor rc rb ra
  | add rc rb ra => exact TableRow.add rc rb ra
  | srl rc rb ra => exact TableRow.srl rc rb ra
  | sra rc rb ra => exact TableRow.sra rc rb ra
  | sll rc rb ra => exact TableRow.sll rc rb ra
  | sub rc rb ra => exact TableRow.sub rc rb ra
  | mul rc rb ra => exact TableRow.mul rc rb ra
  | div rc rb ra => exact TableRow.div rc rb ra
  | illegal u => exact TableRow.illegal u
  | reserved32 n => exact TableRow.reserved32 n
  | reserved64 n => exact TableRow.reserved64 n
  | reserved128 n => exact TableRow.reserved128 n

/-- A packet belongs to the row of the instruction it decodes to. -/
theorem row_decodePacket_covers (w : Packet) : (decodePacket w).row.covers w = true := by
  have h : TableRow.Statement (decodePacket w) := tableRow_statement _
  rwa [TableRow.Statement, encodePacket_decodePacket] at h

/-- Every mask of the opcode map is a run of low bits, so the bits under it are a remainder. -/
theorem toNat_mod_of_and_mask {w m v : Packet} (n : Nat) (hm : m.toNat = 2 ^ n - 1) (h : w &&& m = v) :
    w.toNat % 2 ^ n = v.toNat := by
  rw [← h, BitVec.toNat_and, hm, Nat.and_two_pow_sub_one_eq_mod]

/-- The bits under the mask 0x007F are the size field and the opcode. -/
theorem opcode_of_low_bits {w : Packet} {x : Nat} (h : w.toNat % 2 ^ 7 = x) :
    (packetSize w).toNat = x % 4 ∧ (packetOpcode w).toNat = x / 4 := by
  rw [packetSize_toNat, packetOpcode_toNat]
  omega

/-- The bits under the mask 0x03FF are the size field, the opcode and the selector. -/
theorem selector_of_low_bits {w : Packet} {x : Nat} (h : w.toNat % 2 ^ 10 = x) :
    (packetSize w).toNat = x % 4 ∧ (packetOpcode w).toNat = x / 4 % 32 ∧ (packetImm3 w).toNat = x / 128 := by
  rw [packetSize_toNat, packetOpcode_toNat, packetImm3_toNat]
  omega

/-- The bits under a row's mask are all that the decoder selects by, so a packet of the row of `i` decodes to an
instruction of that row. -/
theorem row_decodePacket_of_covers {i : Instr} {w : Packet} (h : i.row.covers w = true) :
    (decodePacket w).row = i.row := by
  have hbits : w &&& i.row.mask = i.row.value := beq_iff_eq.mp h
  cases i with
  | brk | j | b | ibj | jalib | jtlib | movib | movi | addi | srli | srai | slli | addib | leapc | loadpc | storepc
  | load | store | pin | and | or | xor | add | srl | sra | sll | sub | mul | div | illegal =>
    obtain ⟨hsz, hop⟩ := opcode_of_low_bits (toNat_mod_of_and_mask 7 rfl hbits)
    simp [decodePacket, lengthOfSize, hsz, decodeShort, hop, Instr.row]
  | compareLt | compareGe | compareEq | compareNe | compareLtu | compareGeu | compareMov | compareReserved =>
    obtain ⟨hsz, hop, hfun⟩ := selector_of_low_bits (toNat_mod_of_and_mask 10 rfl hbits)
    simp [decodePacket, lengthOfSize, hsz, decodeShort, decodeCompare, hop, hfun, Instr.row]
  | logicMov | logicNot | logicNeg | logicBswap | logicCtz | logicClz | logicCtpop | logicSext =>
    obtain ⟨hsz, hop, hfun⟩ := selector_of_low_bits (toNat_mod_of_and_mask 10 rfl hbits)
    simp [decodePacket, lengthOfSize, hsz, decodeShort, decodeLogic, hop, hfun, Instr.row]
  | reserved32 | reserved64 | reserved128 =>
    have hsz := (packetSize_toNat w).trans (toNat_mod_of_and_mask 2 rfl hbits)
    simp [decodePacket, lengthOfSize, hsz, Instr.row]

/-! ### The fields of a longer instruction, by packet (spec/30_encoding.md R82 to R84) -/

theorem templateOf_operand (ws : List Packet) :
    (templateOf ws).operand = Nat.ofDigits (2 ^ 9) (ws.map fun w => (packetOperand w).toNat) := by
  induction ws with
  | nil => rfl
  | cons w ws ih => rw [templateOf, List.map_cons, Nat.ofDigits_cons, ih]

theorem templateOf_opcode (ws : List Packet) :
    (templateOf ws).opcode = Nat.ofDigits (2 ^ 5) (ws.map fun w => (packetOpcode w).toNat) := by
  induction ws with
  | nil => rfl
  | cons w ws ih => rw [templateOf, List.map_cons, Nat.ofDigits_cons, ih]

theorem templateOf_size (ws : List Packet) :
    (templateOf ws).size = Nat.ofDigits (2 ^ 2) (ws.map fun w => (packetSize w).toNat) := by
  induction ws with
  | nil => rfl
  | cons w ws ih => rw [templateOf, List.map_cons, Nat.ofDigits_cons, ih]

/-- Division by `b ^ k` drops the k lower digits, and the remainder is then digit k. -/
theorem ofDigits_div_pow_mod {b : Nat} {ds : List Nat} (hds : ∀ d ∈ ds, d < b) {k : Nat} (hk : k < ds.length) :
    Nat.ofDigits b ds / b ^ k % b = ds[k] := by
  have hb : ds[k] < b := hds _ (List.getElem_mem hk)
  rw [Nat.ofDigits_div_pow_eq_ofDigits_drop k (by omega) ds hds, List.drop_eq_getElem_cons hk, Nat.ofDigits_cons,
    Nat.add_mul_mod_self_left, Nat.mod_eq_of_lt hb]

section Digits

variable {n : Nat} (field : Packet → BitVec n) (ws : List Packet)

theorem forall_mem_map_field_lt : ∀ d ∈ ws.map fun w => (field w).toNat, d < 2 ^ n :=
  List.forall_mem_map.mpr fun w _ => (field w).isLt

theorem ofDigits_map_field_lt (hn : n ≠ 0) :
    Nat.ofDigits (2 ^ n) (ws.map fun w => (field w).toNat) < 2 ^ (n * ws.length) := by
  have h := Nat.ofDigits_lt_base_pow_length (Nat.one_lt_two_pow hn) (forall_mem_map_field_lt field ws)
  rwa [List.length_map, ← Nat.pow_mul] at h

theorem ofDigits_map_field_digit (k : Nat) (hk : k < ws.length) :
    Nat.ofDigits (2 ^ n) (ws.map fun w => (field w).toNat) / 2 ^ (n * k) % 2 ^ n = (field ws[k]).toNat := by
  have hk' : k < (ws.map fun w => (field w).toNat).length := by rwa [List.length_map]
  rw [Nat.pow_mul, ofDigits_div_pow_mod (forall_mem_map_field_lt field ws) hk', List.getElem_map]

end Digits

/-! ### The heads of the longer lengths (spec/30_encoding.md R104) -/

theorem exec_decodePacket_of_size_ne_zero {w : Packet} (h : packetSize w ≠ 0) (s : State) :
    exec (decodePacket w) s = .refused .unmodelledLength := by
  unfold decodePacket
  split
  case h_1 hl => exact absurd (size_eq_of_lengthOfSize hl rfl) h
  case h_2 | h_3 | h_4 => rfl

/-! ### The obligations -/

/-- Settles O1: the two bytes make up the packet, and each form gives its fields back. -/
theorem decodeEncodeRoundTrip : Obligations.DecodeEncodeRoundTrip := by
  intro i hi
  rw [decode_packetBytes, decodePacket_encodePacket hi]

/-- Settles O2: a packet is packed from its own fields, in the form of its opcode. -/
theorem encodeDecodeRoundTrip : Obligations.EncodeDecodeRoundTrip := fun w =>
  ⟨decodePacket_wf w, encodePacket_decodePacket w⟩

/-- Settles O3: the one row of a packet is that of the instruction it decodes to. -/
theorem opcodeRowsPartitionPackets : Obligations.OpcodeRowsPartitionPackets := by
  intro w
  refine ⟨(decodePacket w).row, ⟨mem_opcodeTable_iff.mpr ⟨_, rfl⟩, row_decodePacket_covers w⟩, ?_⟩
  rintro r ⟨hmem, hcovers⟩
  obtain ⟨i, rfl⟩ := mem_opcodeTable_iff.mp hmem
  exact (row_decodePacket_of_covers hcovers).symm

/-- Settles O5: each field is a number whose digit k is the field of packet k. -/
theorem templateFieldsByPacket : Obligations.TemplateFieldsByPacket := by
  intro ws k hk
  rw [templateOf_operand, templateOf_opcode, templateOf_size, ← packetOperand_toNat, ← packetOpcode_toNat,
    ← packetSize_toNat]
  exact ⟨ofDigits_map_field_lt packetOperand ws (by decide), ofDigits_map_field_lt packetOpcode ws (by decide),
    ofDigits_map_field_lt packetSize ws (by decide), ofDigits_map_field_digit packetOperand ws k hk,
    ofDigits_map_field_digit packetOpcode ws k hk, ofDigits_map_field_digit packetSize ws k hk⟩

/-- Settles O4, by evaluation of the decoder at the eight words. -/
theorem writtenWordsDecode : Obligations.WrittenWordsDecode := by
  unfold Obligations.WrittenWordsDecode
  decide

/-- Settles O43: each assembles to a comparison with the operands swapped, and `x > y` is `y < x`. -/
theorem swappedComparisons : Obligations.SwappedComparisons := fun _ _ _ =>
  ⟨compareWith_completes decide_eq_true_iff, compareWith_completes decide_eq_true_iff,
    compareWith_completes decide_eq_true_iff, compareWith_completes decide_eq_true_iff⟩

/-- Settles O46: the size field of the packet fetched is that of its first byte. -/
theorem longerLengthRefused : Obligations.LongerLengthRefused := by
  refine ⟨fun _ _ => ⟨rfl, rfl, rfl⟩, fun s hpc hmap hbyte => ?_⟩
  have hsz : packetSize (s.mem.read16 s.pc) ≠ 0 := by
    intro h
    rw [← packetSize_packetOfBytes_toNat, ← Memory.read16_eq_packetOfBytes, h] at hbyte
    exact hbyte rfl
  rw [step_of_fetch (fetch_eq_next.mpr ⟨hpc, hmap, rfl⟩), exec_decodePacket_of_size_ne_zero hsz]

end Sys2Proof.Machine
end

section
/-! PROOF. The jumps with a 9-bit immediate (spec/40_jumps_imm9.md R120 to R122): the packet of each is its signed
field over its opcode, and each moves `pc` or `ib` by a scaled immediate modulo 2^64. -/

namespace Sys2Proof.Machine

/-! ### The packet -/

/-- The 9-bit field of a signed immediate holds it modulo 512 (spec/30_encoding.md R88). -/
theorem packI9_ofInt_toNat (d : Int) (op : BitVec 5) :
    (packI9 (BitVec.ofInt 9 d) op).toNat = (d % 512).toNat * 128 + op.toNat * 4 := by
  rw [packI9_toNat, BitVec.toNat_ofInt]
  rfl

/-! ### The addresses jumped to -/

/-- A base plus a scaled signed immediate is the sum modulo 2^64. -/
theorem toNat_add_signedImm_mul (x : Word) (d : Int) (c : Nat) :
    ((x + signedImm d * BitVec.ofNat 64 c).toNat : Int) = (x.toNat + d * c) % 2 ^ 64 := by
  have hsum : x + signedImm d * BitVec.ofNat 64 c = BitVec.ofInt 64 (x.toNat + d * c) := by
    rw [BitVec.ofInt_add, BitVec.ofInt_mul, BitVec.ofInt_natCast, BitVec.ofInt_natCast, BitVec.ofNat_toNat,
      BitVec.setWidth_eq, signedImm]
  rw [hsum, BitVec.toNat_ofInt, Int.toNat_of_nonneg (Int.emod_nonneg _ (by norm_num))]
  rfl

theorem branchTarget_toNat (s : State) (d : Int) :
    ((branchTarget s d).toNat : Int) = (s.pc.toNat + d * 2 + 2) % 2 ^ 64 := by
  have hsum := toNat_add_signedImm_mul s.pc d 2
  rw [branchTarget, BitVec.toNat_add]
  push_cast at hsum ⊢
  rw [hsum, Int.emod_add_emod]

theorem blockTarget_toNat (s : State) (d : Int) :
    ((blockTarget s d).toNat : Int) = (s.ib.toNat + d * 64) % 2 ^ 64 :=
  toNat_add_signedImm_mul s.ib d 64

/-! ### The branch, by `flag` -/

theorem exec_b_of_flag_set {s : State} (d : Int) (h : s.flag = true) :
    exec (.b d) s = .next (s.setPc (branchTarget s d)) := by
  rw [exec, execB, if_pos h]

theorem exec_b_of_flag_clear {s : State} (d : Int) (h : s.flag = false) : exec (.b d) s = .next s.advance := by
  rw [exec, execB, if_neg (by simp [h])]

/-! ### The obligations -/

/-- Settles O20: `j` sets `pc` to the branch target. -/
theorem jumpMovesPc : Obligations.JumpMovesPc := fun d s _ =>
  ⟨packI9_ofInt_toNat d _, _, rfl, branchTarget_toNat s d, setPc_onlyPc s _⟩

/-- Settles O21, by the two values of `flag`. -/
theorem branchFollowsFlag : Obligations.BranchFollowsFlag := by
  intro d s _
  refine ⟨packI9_ofInt_toNat d _, ?_⟩
  cases hflag : s.flag with
  | true =>
    exact ⟨_, exec_b_of_flag_set d hflag, setPc_onlyPc s _, fun _ => branchTarget_toNat s d, nofun⟩
  | false =>
    exact ⟨_, exec_b_of_flag_clear d hflag, setPc_onlyPc s _, nofun, fun _ => BitVec.toNat_add s.pc 2⟩

/-- Settles O22: `ibj` sets `ib` to the block target and goes on to the next packet. -/
theorem blockJumpMovesIb : Obligations.BlockJumpMovesIb := fun d s _ =>
  ⟨packI9_ofInt_toNat d _, _, rfl, blockTarget_toNat s d, rfl, setPc_setIb_onlyPcIb s (s.pc + 2) _⟩

end Sys2Proof.Machine
end

section
/-! PROOF. Call and return through a link vector (spec/41_link_vector.md R130 to R136). `jalib` and `jtlib` both end in
setting the pair (`pc`, `ib`), which is refused when misaligned; and within 32 bits signed one address is a base plus
one element only, the cut distance from the base (`add_signExtend_eq_iff`). -/

namespace Sys2Proof.Machine

/-! ### The packet -/

/-- The 6-bit field of an unsigned immediate that fits it holds just that (spec/30_encoding.md R89). -/
theorem packRI6_ofNat_toNat {u : Nat} (rc : Reg) (op : BitVec 5) (hu : fitsUnsigned 6 u = true) :
    (packRI6 rc (BitVec.ofNat 6 u) op).toNat = regNumber rc * 8192 + u * 128 + op.toNat * 4 := by
  rw [packRI6_toNat, toNat_ofNat_of_fits hu]
  rfl

/-! ### Elements and distances -/

theorem eq_linkVector_iff {v : Word} {rpc rib : BitVec 32} :
    v = linkVector rpc rib ↔ vecPc v = rpc ∧ vecIb v = rib := by
  constructor
  · rintro rfl
    exact ⟨vecPc_linkVector rpc rib, vecIb_linkVector rpc rib⟩
  · rintro ⟨rfl, rfl⟩
    exact (linkVector_vecPc_vecIb v).symm

/-- A base plus a sign-extended element is the target exactly when the element is the cut distance to it. -/
theorem add_signExtend_eq_iff {base target : Word} {d : BitVec 32} (h : Fits32 (target - base)) :
    base + d.signExtend 64 = target ↔ d = (target - base).setWidth 32 := by
  constructor
  · rintro rfl
    rw [add_sub_cancel_left, setWidth_signExtend_of_32]
  · rintro rfl
    rw [signExtend_setWidth_of_fits32 h, BitVec.add_comm, BitVec.sub_add_cancel]

/-- Subtracting the element `l` takes a distance to where `l` led back to where `l` started. -/
theorem sub_eq_setWidth_sub_iff {d l : BitVec 32} {x y : Word} :
    d - l = (x - y).setWidth 32 ↔ d = (x + l.signExtend 64 - y).setWidth 32 := by
  rw [sub_eq_iff_eq_add, setWidth32_sub, setWidth32_sub, setWidth32_add, setWidth_signExtend_of_32,
    sub_add_eq_add_sub]

theorem zero_sub_setWidth_sub (x y : Word) : 0 - (x - y).setWidth 32 = (y - x).setWidth 32 := by
  rw [setWidth32_sub, setWidth32_sub, zero_sub, neg_sub]

/-- The `pc` of a `jalib` as an integer modulo 2^64 (spec/41_link_vector.md R130). -/
theorem toNat_add_signExtend_add_two (x : Word) (d : BitVec 32) :
    ((x + d.signExtend 64 + 2).toNat : Int) = (x.toNat + d.toInt + 2) % 2 ^ 64 := by
  have hsum := toNat_add_signExtend x d
  have htwo : (2 : Word).toNat = 2 := rfl
  rw [BitVec.toNat_add, htwo]
  omega

/-- Wrapping at 2^64 keeps the remainder that alignment asks for. -/
theorem isAligned_iff_emod {a : Word} {z : Int} {n : Nat} (hn : n ∣ 2 ^ 64) (ha : (a.toNat : Int) = z % 2 ^ 64) :
    isAligned a n = true ↔ z % n = 0 := by
  have hn' : (n : Int) ∣ 2 ^ 64 := by exact_mod_cast hn
  rw [isAligned_iff_dvd, ← Int.natCast_dvd_natCast, ha, Int.dvd_iff_emod_eq_zero, Int.emod_emod_of_dvd _ hn']

theorem isAligned_add_signExtend_iff {x : Word} {d : BitVec 32} {n : Nat} (hn : n ∣ 2 ^ 64) :
    isAligned (x + d.signExtend 64) n = true ↔ (x.toNat + d.toInt) % n = 0 :=
  isAligned_iff_emod hn (toNat_add_signExtend x d)

theorem isAligned_add_signExtend_add_two_iff {x : Word} {d : BitVec 32} :
    isAligned (x + d.signExtend 64 + 2) 2 = true ↔ (x.toNat + d.toInt) % 2 = 0 := by
  rw [isAligned_iff_emod (by norm_num) (toNat_add_signExtend_add_two x d)]
  omega

/-! ### Setting the pair -/

theorem jumpPair_of_misaligned {p b : Word} (h : ¬ (isAligned p 2 = true ∧ isAligned b 64 = true)) (s : State) :
    jumpPair p b s = .refused (.misalignedTarget p b) := by
  rw [jumpPair, if_neg (by rwa [Bool.and_eq_true])]

theorem not_isAligned_pair_iff {p b : Word} :
    ¬ (isAligned p 2 = true ∧ isAligned b 64 = true) ↔ p.toNat % 2 ≠ 0 ∨ b.toNat % 64 ≠ 0 := by
  rw [isAligned_iff_mod, isAligned_iff_mod, not_and_or]

theorem setPc_setIb_setReg_onlyLink (s : State) (p b : Word) (rc : Reg) (v : Word) :
    OnlyLink rc s (((s.setPc p).setIb b).setReg rc v) :=
  ⟨fun _ h => State.reg_setReg_other _ v h, rfl, fun _ => rfl, ⟨rfl, rfl, rfl, rfl⟩⟩

/-! ### `jalib`, for the constant `v` and the new pair `(p, b)` -/

section Jalib

variable {s t : State} {rc : Reg} {u : Nat} {v p b : Word}

/-- A `jalib` that answered has moved the pair by the elements of the vector it left in `rc`. -/
theorem pair_of_exec_jalib (h : exec (.jalib rc u) s = .next t) :
    t.pc = s.pc + (vecPc (t.reg rc)).signExtend 64 + 2 ∧ t.ib = s.ib + (vecIb (t.reg rc)).signExtend 64 := by
  obtain ⟨v, -, h⟩ := andThen_eq_next.mp h
  obtain ⟨w, hw, h⟩ := andThen_eq_next.mp h
  obtain ⟨-, -, rfl⟩ := jumpPair_eq_next.mp hw
  cases h
  rw [State.reg_setReg_same]
  exact ⟨rfl, rfl⟩

variable (hc : s.constReadable (const64Addr s u) 8) (hv : v = s.mem.read64 (const64Addr s u))
  (hp : p = s.pc + (vecPc v).signExtend 64 + 2) (hb : b = s.ib + (vecIb v).signExtend 64)

include hc hv hp hb

/-- Where its constant may be read, `jalib` comes down to setting the pair, and `rc` after it. -/
theorem exec_jalib_of_constReadable :
    exec (.jalib rc u) s = andThen (jumpPair p b s) fun t => .next (t.setReg rc v) := by
  rw [exec, execJalib, readConst64_eq_next.mpr ⟨hc, hv⟩, andThen_of_next, hp, hb]

theorem exec_jalib_completes (hpa : isAligned p 2 = true) (hba : isAligned b 64 = true) :
    ∃ t, exec (.jalib rc u) s = .next t ∧ t.pc = p ∧ t.ib = b ∧ t.reg rc = v ∧ OnlyLink rc s t := by
  refine ⟨((s.setPc p).setIb b).setReg rc v, ?_, rfl, rfl, State.reg_setReg_same _ rc v,
    setPc_setIb_setReg_onlyLink s p b rc v⟩
  rw [exec_jalib_of_constReadable hc hv hp hb, jumpPair_eq_next.mpr ⟨hpa, hba, rfl⟩, andThen_of_next]

theorem exec_jalib_refused (h : ¬ (isAligned p 2 = true ∧ isAligned b 64 = true)) :
    exec (.jalib rc u) s = .refused (.misalignedTarget p b) := by
  rw [exec_jalib_of_constReadable hc hv hp hb, jumpPair_of_misaligned h, andThen_of_refused]

end Jalib

/-! ### `jtlib`, for the constant `v` and the new pair `(p, b)` -/

section Jtlib

variable {s : State} {rc : Reg} {u : Nat} {v p b : Word}
  (hc : s.constReadable (const64Addr s u) 8) (hv : v = s.mem.read64 (const64Addr s u))

section Pair

variable (hp : p = s.pc + (vecPc v - vecPc (s.reg rc)).signExtend 64)
  (hb : b = s.ib + (vecIb v - vecIb (s.reg rc)).signExtend 64)

include hc hv hp hb

/-- Where its constant may be read, `jtlib` comes down to setting the pair. -/
theorem exec_jtlib_of_constReadable : exec (.jtlib rc u) s = jumpPair p b s := by
  rw [exec, execJtlib, readConst64_eq_next.mpr ⟨hc, hv⟩, andThen_of_next, hp, hb]

theorem exec_jtlib_completes (hpa : isAligned p 2 = true) (hba : isAligned b 64 = true) :
    ∃ t, exec (.jtlib rc u) s = .next t ∧ t.pc = p ∧ t.ib = b ∧ OnlyPcIb s t := by
  refine ⟨(s.setPc p).setIb b, ?_, rfl, rfl, setPc_setIb_onlyPcIb s p b⟩
  rw [exec_jtlib_of_constReadable hc hv hp hb, jumpPair_eq_next.mpr ⟨hpa, hba, rfl⟩]

theorem exec_jtlib_refused (h : ¬ (isAligned p 2 = true ∧ isAligned b 64 = true)) :
    exec (.jtlib rc u) s = .refused (.misalignedTarget p b) := by
  rw [exec_jtlib_of_constReadable hc hv hp hb, jumpPair_of_misaligned h]

end Pair

include hc hv

/-- A `jtlib` lands on an aligned pair within reach exactly when its element differences are the distances to it. -/
theorem exec_jtlib_lands_iff (hpa : isAligned p 2 = true) (hba : isAligned b 64 = true) (hpf : Fits32 (p - s.pc))
    (hbf : Fits32 (b - s.ib)) :
    (∃ t, exec (.jtlib rc u) s = .next t ∧ t.pc = p ∧ t.ib = b ∧ OnlyPcIb s t) ↔
      vecPc v - vecPc (s.reg rc) = (p - s.pc).setWidth 32 ∧ vecIb v - vecIb (s.reg rc) = (b - s.ib).setWidth 32 := by
  rw [← add_signExtend_eq_iff hpf, ← add_signExtend_eq_iff hbf]
  constructor
  · rintro ⟨t, ht, rfl, rfl, -⟩
    rw [exec_jtlib_of_constReadable hc hv rfl rfl] at ht
    obtain ⟨-, -, rfl⟩ := jumpPair_eq_next.mp ht
    exact ⟨rfl, rfl⟩
  · rintro ⟨hp, hb⟩
    exact exec_jtlib_completes hc hv hp.symm hb.symm hpa hba

end Jtlib

/-! ### The obligations -/

/-- Settles O25: the pair that would be set is the one refused. -/
theorem misalignedTargetRefused : Obligations.MisalignedTargetRefused := fun _ _ _ hc =>
  ⟨fun _ _ hp hb h => exec_jalib_refused hc rfl hp hb (not_isAligned_pair_iff.mpr h),
    fun _ _ hp hb h => exec_jtlib_refused hc rfl hp hb (not_isAligned_pair_iff.mpr h)⟩

/-- Settles O23: the sums modulo 2^64 are aligned exactly when the integer sums are. -/
theorem jalibMovesPairAndLinks : Obligations.JalibMovesPairAndLinks := by
  intro rc u s hu
  refine ⟨packRI6_ofNat_toNat rc _ hu, fun hc v hv hpc hib => ?_, fun hc v hv h => ?_⟩
  · obtain ⟨t, ht, hp, hb, hr, hframe⟩ := exec_jalib_completes (rc := rc) hc hv rfl rfl
      (isAligned_add_signExtend_add_two_iff.mpr hpc) ((isAligned_add_signExtend_iff (by norm_num)).mpr hib)
    exact ⟨t, ht, hp ▸ toNat_add_signExtend_add_two _ _, hb ▸ toNat_add_signExtend _ _, hr, hframe⟩
  · refine ⟨_, _, exec_jalib_refused hc hv rfl rfl ?_⟩
    rw [isAligned_add_signExtend_add_two_iff, isAligned_add_signExtend_iff (by norm_num)]
    exact not_and_or.mpr h

/-- Settles O24: the difference of two elements is an element, and its signed value is that of the integers modulo
2^32. -/
theorem jtlibMovesPairBack : Obligations.JtlibMovesPairBack := by
  intro rc u s hu
  refine ⟨packRI6_ofNat_toNat rc _ hu, ?_⟩
  simp only [← BitVec.toInt_sub]
  constructor
  · rintro hc c _ _ hv rfl rfl hpc hib
    obtain ⟨t, ht, hp, hb, hframe⟩ := exec_jtlib_completes (rc := rc) hc hv rfl rfl
      ((isAligned_add_signExtend_iff (by norm_num)).mpr hpc) ((isAligned_add_signExtend_iff (by norm_num)).mpr hib)
    exact ⟨t, ht, hp ▸ toNat_add_signExtend _ _, hb ▸ toNat_add_signExtend _ _, hframe⟩
  · rintro hc c _ _ hv rfl rfl h
    refine ⟨_, _, exec_jtlib_refused hc hv rfl rfl ?_⟩
    rw [isAligned_add_signExtend_iff (by norm_num), isAligned_add_signExtend_iff (by norm_num)]
    exact not_and_or.mpr h

/-- Settles O27: within reach, a base plus the cut distance is the label. -/
theorem callReachesSymbol : Obligations.CallReachesSymbol := by
  intro f slot s hc hv htext hconst hpf hbf
  obtain ⟨hrpc, hrib⟩ := eq_linkVector_iff.mp hv
  have hp : f.text = s.pc + (vecPc (s.mem.read64 (const64Addr s slot))).signExtend 64 + 2 := by
    rw [add_right_comm, (add_signExtend_eq_iff hpf).mpr hrpc]
  have hb : f.const = s.ib + (vecIb (s.mem.read64 (const64Addr s slot))).signExtend 64 :=
    ((add_signExtend_eq_iff hbf).mpr hrib).symm
  rw [← hv]
  exact exec_jalib_completes hc rfl hp hb htext hconst

/-- Settles O28: zero less the distance back to the `jtlib` is the distance on to the target. -/
theorem pinThenJtlibJumpsToPair : Obligations.PinThenJtlibJumpsToPair := by
  intro rc rb ra u s p hpin hc hv hra hrb hpf hbf
  obtain rfl := writeBack_eq_next.mp hpin
  refine (exec_jtlib_lands_iff hc hv.symm (isAligned_iff_mod.mpr hra) (isAligned_iff_mod.mpr hrb) hpf hbf).mpr ?_
  rw [State.reg_advance, State.reg_setReg_same, vecPc_linkVector, vecIb_linkVector]
  exact ⟨zero_sub_setWidth_sub _ _, zero_sub_setWidth_sub _ _⟩

/-- Settles O26: the `jtlib` comes back exactly when its element differences are the distances back, and with the
call's vector added to both sides these are the distances to the entry. -/
theorem callThenReturnComesBack : Obligations.CallThenReturnComesBack := by
  intro rc uc ur c e r hcpc hcib hcall hlink hc hpf hbf
  obtain ⟨hepc, heib⟩ := pair_of_exec_jalib hcall
  rw [exec_jtlib_lands_iff hc rfl (isAligned_add_two hcpc) hcib hpf hbf, hlink, sub_eq_setWidth_sub_iff,
    sub_eq_setWidth_sub_iff, add_right_comm, ← hepc, ← heib]
  exact eq_linkVector_iff.symm

end Sys2Proof.Machine
end

section
/-! PROOF. One register with a 6-bit immediate (spec/42_imm6_ops.md R140 to R147). Each of the eight instructions writes
back one value, three of them after the read of a constant; what is left to say of each is that value as an integer. -/

namespace Sys2Proof.Machine

/-! ### The packet -/

/-- The 6-bit field of a signed immediate holds it modulo 64 (spec/30_encoding.md R89). -/
theorem packRI6_ofInt_toNat (rc : Reg) (d : Int) (op : BitVec 5) :
    (packRI6 rc (BitVec.ofInt 6 d) op).toNat = regNumber rc * 8192 + (d % 64).toNat * 128 + op.toNat * 4 := by
  rw [packRI6_toNat, BitVec.toNat_ofInt]
  rfl

/-! ### The values written -/

/-- An immediate of a field keeps its signed value in 64 bits (spec/00_scope.md R13). -/
theorem signedImm_toInt {n : Nat} {d : Int} (hn : n ≤ 64) (h : fitsSigned n d = true) : (signedImm d).toInt = d := by
  have hpow : (2 : Int) ^ (n - 1) ≤ 2 ^ 63 := pow_le_pow_right₀ (by norm_num) (by omega)
  obtain ⟨hlo, hhi⟩ := of_decide_eq_true h
  exact toInt_ofInt_of_fits (decide_eq_true ⟨(neg_le_neg hpow).trans hlo, hhi.trans_le hpow⟩)

/-- A word plus a signed immediate is the sum modulo 2^64 (spec/42_imm6_ops.md R142). -/
theorem toNat_add_signedImm (x : Word) (d : Int) :
    ((x + signedImm d).toNat : Int) = (x.toNat + d) % 2 ^ 64 := by
  simpa using toNat_add_signedImm_mul x d 1

theorem shiftRightLogical_toNat (x : Word) (d : Nat) : (shiftRightLogical x d).toNat = x.toNat / 2 ^ d :=
  (BitVec.toNat_ushiftRight x d).trans (Nat.shiftRight_eq_div_pow _ d)

/-- `Int` division by a positive number is the floor of the quotient, as R144 asks. -/
theorem shiftRightArith_toInt (x : Word) (d : Nat) : (shiftRightArith x d).toInt = x.toInt / 2 ^ d := by
  rw [shiftRightArith, BitVec.toInt_sshiftRight, Int.shiftRight_eq_div_pow, Nat.cast_pow, Nat.cast_ofNat]

theorem shiftLeft_toNat (x : Word) (d : Nat) : (shiftLeft x d).toNat = x.toNat * 2 ^ d % 2 ^ 64 := by
  rw [shiftLeft, BitVec.toNat_shiftLeft, Nat.shiftLeft_eq]

/-! ### A read, then a write-back -/

/-- A write-back after an answer answers, and whatever holds of the value written holds of the register afterwards. -/
theorem andThen_writeBack_completes {α : Type} {s : State} {rc : Reg} {x : Result α} {c : α} {f : α → Word}
    (P : Word → Prop) (hx : x = .next c) (h : P (f c)) :
    ∃ t, andThen x (fun c => writeBack rc (f c) s) = .next t ∧ P (t.reg rc) ∧ t.pc = s.pc + 2 ∧ OnlyReg rc s t := by
  rw [hx, andThen_of_next]
  exact writeBack_completes h

/-! ### The obligations -/

/-- Settles O29: the constant read is the value written. -/
theorem movibLoadsConstant : Obligations.MovibLoadsConstant := fun rc u s hu =>
  ⟨packRI6_ofNat_toNat rc _ hu, fun hc =>
    andThen_writeBack_completes (f := id) (· = s.mem.read64 (const64Addr s u)) (readConst64_eq_next.mpr ⟨hc, rfl⟩) rfl⟩

/-- Settles O30: the immediate in 64 bits is the value written by `movi`, and what `addi` adds. -/
theorem moviAndAddi : Obligations.MoviAndAddi := by
  intro rc d s hd
  refine ⟨⟨packRI6_ofInt_toNat rc d _, ?_⟩, packRI6_ofInt_toNat rc d _, ?_⟩
  · exact writeBack_completes (P := fun v => v.toInt = d) (signedImm_toInt (by norm_num) hd)
  · exact writeBack_completes (P := fun v => (v.toNat : Int) = ((s.reg rc).toNat + d) % 2 ^ 64)
      (toNat_add_signedImm (s.reg rc) d)

/-- Settles O31: each shift as a quotient or a product with 2^uimm6. -/
theorem immediateShifts : Obligations.ImmediateShifts := by
  intro rc u s hu
  refine ⟨⟨packRI6_ofNat_toNat rc _ hu, ?_⟩, ⟨packRI6_ofNat_toNat rc _ hu, ?_⟩, packRI6_ofNat_toNat rc _ hu, ?_⟩
  · exact writeBack_completes (P := fun v => v.toNat = (s.reg rc).toNat / 2 ^ u)
      (shiftRightLogical_toNat (s.reg rc) u)
  · exact writeBack_completes (P := fun v => v.toInt = (s.reg rc).toInt / 2 ^ u)
      (shiftRightArith_toInt (s.reg rc) u)
  · exact writeBack_completes (P := fun v => v.toNat = (s.reg rc).toNat * 2 ^ u % 2 ^ 64)
      (shiftLeft_toNat (s.reg rc) u)

/-- Settles O32: both add the constant, sign-extended, `leapc` to its own `pc`. -/
theorem addibAndLeapc : Obligations.AddibAndLeapc := by
  intro rc u s hu
  refine ⟨packRI6_ofNat_toNat rc _ hu, packRI6_ofNat_toNat rc _ hu, fun hc c hv => ?_⟩
  have hread : readConst32 s (const32Addr s u) = .next c := readConst32_eq_next.mpr ⟨hc, hv⟩
  exact ⟨andThen_writeBack_completes (fun v => (v.toNat : Int) = ((s.reg rc).toNat + c.toInt) % 2 ^ 64) hread
      (toNat_add_signExtend (s.reg rc) c),
    andThen_writeBack_completes (fun v => (v.toNat : Int) = (s.pc.toNat + c.toInt) % 2 ^ 64) hread
      (toNat_add_signExtend s.pc c)⟩

end Sys2Proof.Machine
end

section
/-! PROOF. Loads and stores (spec/43_loads_stores.md R160 to R163). Where its constant may be read, `loadpc` is `load`
and `storepc` is `store` at another address; a load is then a read and a write-back, a store eight bytes written and
the next packet. -/

namespace Sys2Proof.Machine

/-! ### The packet -/

/-- The 3-bit field of an unsigned immediate that fits it holds just that (spec/30_encoding.md R90). -/
theorem packRRI3_ofNat_toNat {u : Nat} (rc rb : Reg) (op : BitVec 5) (hu : fitsUnsigned 3 u = true) :
    (packRRI3 rc rb (BitVec.ofNat 3 u) op).toNat =
      regNumber rc * 8192 + regNumber rb * 1024 + u * 128 + op.toNat * 4 := by
  rw [packRRI3_toNat, toNat_ofNat_of_fits hu]
  rfl

/-! ### What a load and a store do at their address -/

section Access

variable {s t : State} {a v : Word}

/-- A load that may be made answers, with the eight bytes in `rc`. -/
theorem loadData_writeBack_completes (rc : Reg) (h : s.loadable a) :
    ∃ t, andThen (loadData s a) (fun v => writeBack rc v s) = .next t ∧ t.reg rc = s.mem.read64 a ∧ t.pc = s.pc + 2 ∧
      OnlyReg rc s t :=
  andThen_writeBack_completes (f := id) (· = s.mem.read64 a) (loadData_eq_next.mpr ⟨h, rfl⟩) rfl

theorem storeData_advance_eq_next :
    andThen (storeData s a v) (fun t => .next t.advance) = .next t ↔
      s.storable a ∧ t = (s.setMem (s.mem.write64 a v)).advance := by
  constructor
  · intro h
    obtain ⟨w, hw, h⟩ := andThen_eq_next.mp h
    obtain ⟨ha, rfl⟩ := storeData_eq_next.mp hw
    cases h
    exact ⟨ha, rfl⟩
  · rintro ⟨ha, rfl⟩
    rw [storeData_eq_next.mpr ⟨ha, rfl⟩, andThen_of_next]

theorem setMem_write64_advance_onlyStored (s : State) (a v : Word) :
    OnlyStored a s (s.setMem (s.mem.write64 a v)).advance :=
  ⟨fun _ => rfl, rfl, rfl, Memory.read_write64_outside s.mem a v, ⟨rfl, rfl, rfl, rfl⟩⟩

/-- A store that may be made answers, with the eight bytes of the value in place. -/
theorem storeData_advance_completes (v : Word) (hm : s.mem.wf = true) (h : s.storable a) :
    ∃ t, andThen (storeData s a v) (fun t => .next t.advance) = .next t ∧ t.pc = s.pc + 2 ∧ OnlyStored a s t ∧
      ∀ k b : Nat, k < 8 → b < 8 →
        (t.mem.read (a + BitVec.ofNat 64 k).toNat).getLsbD b = v.getLsbD (8 * k + b) :=
  ⟨_, storeData_advance_eq_next.mpr ⟨h, rfl⟩, rfl, setMem_write64_advance_onlyStored s a v,
    fun _ _ hk hb => Memory.getLsbD_read_write64 a v hm hk hb⟩

end Access

/-! ### The address by a constant -/

section PcRelative

variable {s : State} {a : Word} {u : Nat} (rc : Reg) (hc : s.constReadable (const32Addr s u) 4)
  (ha : a = pcRelAddr s (s.mem.read32 (const32Addr s u)))

include hc ha

theorem exec_loadpc_of_constReadable :
    exec (.loadpc rc u) s = andThen (loadData s a) fun v => writeBack rc v s := by
  rw [exec, execLoadpc, readConst32_eq_next.mpr ⟨hc, rfl⟩, andThen_of_next, ha]

theorem exec_storepc_of_constReadable :
    exec (.storepc rc u) s = andThen (storeData s a (s.reg rc)) fun t => .next t.advance := by
  rw [exec, execStorepc, readConst32_eq_next.mpr ⟨hc, rfl⟩, andThen_of_next, ha]

end PcRelative

/-! ### The obligations -/

/-- Settles O34: one store, at the address of either mode. -/
theorem storesWriteMemory : Obligations.StoresWriteMemory := by
  intro rc rb u s hm
  obtain ⟨hmisReg, hmisPc, -⟩ := misalignedAccessRefused rc rb u s
  refine ⟨packRRI3_ofNat_toNat rc rb _, fun hs => ?_, packRI6_ofNat_toNat rc _, fun hc a ha hs => ?_,
    fun hmis => (hmisReg _ rfl hmis).2, fun hc a ha hmis => (hmisPc hc a ha hmis).2⟩
  · exact storeData_advance_completes (s.reg rc) hm hs
  · rw [exec_storepc_of_constReadable rc hc ha]
    exact storeData_advance_completes (s.reg rc) hm hs

/-- Settles O35: the store leaves `r[rb]` as it was, so the load reads the eight bytes just written. -/
theorem storeThenLoadReturnsValue : Obligations.StoreThenLoadReturnsValue := by
  intro rc rb rd u s t hm hstore hload
  obtain ⟨-, rfl⟩ := storeData_advance_eq_next.mp hstore
  obtain ⟨v, hv, hread, -⟩ := loadData_writeBack_completes rd hload
  exact ⟨v, hv, hread.trans (Memory.read64_write64 (regRelAddr s rb u) (s.reg rc) hm)⟩

/-- Settles O33: one load, at the address of either mode. -/
theorem loadsReadMemory : Obligations.LoadsReadMemory := by
  intro rc rb u s
  obtain ⟨hmisReg, hmisPc, -⟩ := misalignedAccessRefused rc rb u s
  refine ⟨packRRI3_ofNat_toNat rc rb _, fun hl => ?_, packRI6_ofNat_toNat rc _, fun hc a ha hl => ?_,
    fun hmis => (hmisReg _ rfl hmis).1, fun hc a ha hmis => (hmisPc hc a ha hmis).1⟩
  · exact loadData_writeBack_completes rc hl
  · rw [exec_loadpc_of_constReadable rc hc ha]
    exact loadData_writeBack_completes rc hl

end Sys2Proof.Machine
end

section
/-! PROOF. `compare.i64` by its selector (spec/44_compare_logic.md R171 to R178): six comparisons that write `flag`, the
conditional move, and the reserved selector, which is refused. -/

namespace Sys2Proof.Machine

/-! ### The packet -/

/-- Two register fields over a constant selector and opcode (spec/30_encoding.md R90, R101, R102). -/
theorem packRRI3_selector_toNat (rc rb : Reg) (fun3 : BitVec 3) (op : BitVec 5) :
    (packRRI3 rc rb fun3 op).toNat =
      regNumber rc * 8192 + regNumber rb * 1024 + (fun3.toNat * 128 + op.toNat * 4) := by
  rw [packRRI3_toNat, Nat.add_assoc]
  rfl

/-! ### The value written back -/

/-- A write-back answers, with the value in `rc`. -/
theorem writeBack_writes (s : State) (rc : Reg) (v : Word) :
    ∃ t, writeBack rc v s = .next t ∧ t.reg rc = v ∧ t.pc = s.pc + 2 ∧ OnlyReg rc s t :=
  writeBack_completes (P := (· = v)) rfl

/-! ### The relations of equality -/

theorem relEq_iff {x y : Word} : relEq x y = true ↔ x = y := beq_iff_eq

theorem relNe_iff {x y : Word} : relNe x y = true ↔ x ≠ y := bne_iff_ne

/-! ### The conditional move, by `flag` -/

theorem exec_compareMov_of_flag_set {s : State} (rc rb : Reg) (h : s.flag = true) :
    exec (.compareMov rc rb) s = writeBack rc (s.reg rb) s := by
  rw [exec, execCompareMov, if_pos h, writeBack]

theorem exec_compareMov_of_flag_clear {s : State} (rc rb : Reg) (h : s.flag = false) :
    exec (.compareMov rc rb) s = .next s.advance := by
  rw [exec, execCompareMov, if_neg (by simp [h])]

/-- Where nothing but `pc` changes, nothing but `pc` and any one register does. -/
theorem OnlyPc.onlyReg {s t : State} (rc : Reg) (h : OnlyPc s t) : OnlyReg rc s t :=
  ⟨fun r _ => h.regs r, h.ib, h.flag, h.mem, h.noTrap⟩

/-! ### The obligations -/

/-- Settles O40: both operands are compared as signed integers, `r[rc]` on the left. -/
theorem compareSigned : Obligations.CompareSigned := fun rc rb _ =>
  ⟨⟨packRRI3_selector_toNat rc rb _ _, compareWith_completes decide_eq_true_iff⟩,
    packRRI3_selector_toNat rc rb _ _, compareWith_completes decide_eq_true_iff⟩

/-- Settles O41: the words are compared as they are. -/
theorem compareEquality : Obligations.CompareEquality := fun rc rb _ =>
  ⟨⟨packRRI3_selector_toNat rc rb _ _, compareWith_completes relEq_iff⟩,
    packRRI3_selector_toNat rc rb _ _, compareWith_completes relNe_iff⟩

/-- Settles O42: both operands are compared as unsigned integers, `r[rc]` on the left. -/
theorem compareUnsigned : Obligations.CompareUnsigned := fun rc rb _ =>
  ⟨⟨packRRI3_selector_toNat rc rb _ _, compareWith_completes decide_eq_true_iff⟩,
    packRRI3_selector_toNat rc rb _ _, compareWith_completes decide_eq_true_iff⟩

/-- Settles O44, by the two values of `flag`: a write-back of `r[rb]`, or the next packet and nothing else. -/
theorem conditionalMove : Obligations.ConditionalMove := by
  intro rc rb s
  refine ⟨packRRI3_selector_toNat rc rb _ _, ?_⟩
  cases hflag : s.flag with
  | true =>
    obtain ⟨t, hexec, hreg, hpc, hframe⟩ := writeBack_writes s rc (s.reg rb)
    exact ⟨t, (exec_compareMov_of_flag_set rc rb hflag).trans hexec, hpc, hframe, fun _ => hreg, nofun⟩
  | false =>
    exact ⟨_, exec_compareMov_of_flag_clear rc rb hflag, rfl, (setPc_onlyPc s _).onlyReg rc, nofun, fun _ => rfl⟩

/-- Settles O45: the reserved selector has no other answer. -/
theorem reservedCompareRefused : Obligations.ReservedCompareRefused := fun rc rb _ =>
  ⟨packRRI3_selector_toNat rc rb _ _, rfl⟩

end Sys2Proof.Machine
end

section
/-! PROOF. `logic.i64` by its selector (spec/44_compare_logic.md R180 to R188). Each of the eight writes back one
value of `r[rb]`; what is left to say of each is that value: its bits, its number, or the place of a bit found by
searching. -/

namespace Sys2Proof.Machine

/-! ### The negation -/

/-- A difference of words is the difference modulo 2^64. -/
theorem toNat_sub_eq_emod (x y : Word) : ((x - y).toNat : Int) = ((x.toNat : Int) - y.toNat) % 2 ^ 64 := by
  have hx := x.isLt
  have hy := y.isLt
  rw [BitVec.toNat_sub]
  omega

/-! ### The byte swap -/

/-- The lowest byte of a value with a byte appended below is that byte. -/
theorem getLsbD_append_byte_low {n b : Nat} (x : BitVec n) (y : Byte) (hb : b < 8) :
    (x ++ y).getLsbD b = y.getLsbD b := by
  rw [BitVec.getLsbD_append, if_pos hb]

/-- Each higher byte is the byte one lower of the value above. -/
theorem getLsbD_append_byte_succ {n b : Nat} (x : BitVec n) (y : Byte) (k : Nat) :
    (x ++ y).getLsbD (8 * (k + 1) + b) = x.getLsbD (8 * k + b) := by
  rw [BitVec.getLsbD_append, if_neg (by omega)]
  congr 1
  omega

/-- Bit b of byte k of the swapped value is bit b of byte 7 - k: below byte k stand k appended bytes
(spec/44_compare_logic.md R184). -/
theorem getLsbD_byteSwap (x : Word) {k b : Nat} (hk : k < 8) (hb : b < 8) :
    (byteSwap x).getLsbD (8 * k + b) = x.getLsbD (8 * (7 - k) + b) := by
  have hbyte (j : Nat) : (x.extractLsb' j 8).getLsbD b = x.getLsbD (j + b) := by
    rw [BitVec.getLsbD_extractLsb', decide_eq_true hb, Bool.true_and]
  unfold byteSwap
  interval_cases k <;>
    simp only [getLsbD_append_byte_succ, Nat.mul_zero, Nat.zero_add, Nat.sub_self,
      getLsbD_append_byte_low _ _ hb, hbyte]

/-! ### The place of a bit -/

section Search

variable {p : Nat → Bool} {n k : Nat}

/-- The first index below `n` with a property, or `n` where there is none: where there is one. -/
theorem find?_range_getD_of_first (hk : k < n) (hp : p k = true) (hbelow : ∀ j : Nat, j < k → p j = false) :
    ((List.range n).find? p).getD n = k := by
  have hfind : (List.range n).find? p = some k :=
    List.find?_range_eq_some.mpr ⟨hp, List.mem_range.mpr hk, fun j hj => by rw [hbelow j hj]; rfl⟩
  rw [hfind, Option.getD_some]

/-- The first index below `n` with a property, or `n` where there is none: where there is none. -/
theorem find?_range_getD_of_none (h : ∀ j : Nat, j < n → p j = false) : ((List.range n).find? p).getD n = n := by
  have hfind : (List.range n).find? p = none :=
    List.find?_range_eq_none.mpr fun j hj => by rw [h j hj]; rfl
  rw [hfind, Option.getD_none]

end Search

theorem countTrailingZeros_zero : countTrailingZeros 0 = 64 :=
  find?_range_getD_of_none fun _ _ => BitVec.getLsbD_zero

theorem countLeadingZeros_zero : countLeadingZeros 0 = 64 :=
  find?_range_getD_of_none fun _ _ => BitVec.getLsbD_zero

/-- The least bit set is the number of zeros below it (spec/44_compare_logic.md R185). -/
theorem countTrailingZeros_of_least {x : Word} {k : Nat} (hk : k < 64) (hset : x.getLsbD k = true)
    (hbelow : ∀ j : Nat, j < k → x.getLsbD j = false) : countTrailingZeros x = k :=
  find?_range_getD_of_first hk hset hbelow

/-- Counted from the top, the greatest bit set comes first (spec/44_compare_logic.md R186). -/
theorem countLeadingZeros_of_greatest {x : Word} {k : Nat} (hk : k < 64) (hset : x.getLsbD k = true)
    (habove : ∀ j : Nat, k < j → j < 64 → x.getLsbD j = false) : countLeadingZeros x = 63 - k := by
  refine find?_range_getD_of_first (by omega) ?_ fun j hj => habove (63 - j) (by omega) (by omega)
  rwa [show 63 - (63 - k) = k by omega]

/-! ### The number of bits set -/

/-- A count of indices is a sum of zeros and ones. -/
theorem countP_range_eq_sum (p : Nat → Bool) (n : Nat) :
    (List.range n).countP p = ∑ k ∈ Finset.range n, (p k).toNat := by
  induction n with
  | zero => rfl
  | succ n ih =>
    rw [List.range_succ, List.countP_append, ih, Finset.sum_range_succ, List.countP_singleton]
    cases p n <;> rfl

theorem countPopulation_eq_sum (x : Word) :
    countPopulation x = ∑ k ∈ Finset.range 64, (x.getLsbD k).toNat :=
  countP_range_eq_sum _ 64

theorem countPopulation_le (x : Word) : countPopulation x ≤ 64 := List.countP_le_length

/-- A count fits in a register. -/
theorem unsignedImm_toNat {u : Nat} (h : u ≤ 64) : (unsignedImm u).toNat = u :=
  Nat.mod_eq_of_lt (by omega)

/-! ### The sign extension -/

/-- The low `n` bits of a word, sign-extended, are its number read as `n` bits signed
(spec/44_compare_logic.md R188). -/
theorem signExtendFrom_toInt {n : Nat} (hn : n ≤ 64) (x : Word) :
    (signExtendFrom n x).toInt = (x.toNat : Int).bmod (2 ^ n) := by
  rw [signExtendFrom, BitVec.toInt_signExtend_of_le hn, BitVec.toInt_setWidth]

theorem Params.wf_iff {p : Params} : p.wf = true ↔ 1 ≤ p.sextSrcBits ∧ p.sextSrcBits ≤ 64 := by
  simp [Params.wf]

/-! ### The obligations -/

/-- Settles O48: the eight bytes are appended in the opposite order. -/
theorem logicBswap : Obligations.LogicBswap := fun rc rb s =>
  ⟨packRRI3_selector_toNat rc rb _ _,
    writeBack_completes
      (P := fun v => ∀ k b : Nat, k < 8 → b < 8 → v.getLsbD (8 * k + b) = (s.reg rb).getLsbD (8 * (7 - k) + b))
      fun _ _ => getLsbD_byteSwap (s.reg rb)⟩

/-- Settles O49: the search from bit 0 up ends at the least bit set, or finds none in 0. -/
theorem logicCtz : Obligations.LogicCtz := by
  intro rc rb s
  refine ⟨packRRI3_selector_toNat rc rb _ _, ?_⟩
  obtain ⟨t, hexec, hreg, hpc, hframe⟩ :=
    writeBack_writes s rc (unsignedImm (countTrailingZeros (s.reg rb)))
  refine ⟨t, hexec, hpc, hframe, fun hzero => ?_, fun k hk hset hbelow => ?_⟩
  · rw [hreg, hzero, countTrailingZeros_zero, unsignedImm_toNat le_rfl]
  · rw [hreg, countTrailingZeros_of_least hk hset hbelow, unsignedImm_toNat hk.le]

/-- Settles O50: the search from bit 63 down ends at the greatest bit set, or finds none in 0. -/
theorem logicClz : Obligations.LogicClz := by
  intro rc rb s
  refine ⟨packRRI3_selector_toNat rc rb _ _, ?_⟩
  obtain ⟨t, hexec, hreg, hpc, hframe⟩ :=
    writeBack_writes s rc (unsignedImm (countLeadingZeros (s.reg rb)))
  refine ⟨t, hexec, hpc, hframe, fun hzero => ?_, fun k hk hset habove => ?_⟩
  · rw [hreg, hzero, countLeadingZeros_zero, unsignedImm_toNat le_rfl]
  · rw [hreg, countLeadingZeros_of_greatest hk hset habove, unsignedImm_toNat (by omega)]

/-- Settles O51: a count of at most 64 fits in `rc`, and is the sum of the bits. -/
theorem logicCtpop : Obligations.LogicCtpop := fun rc rb s =>
  ⟨packRRI3_selector_toNat rc rb _ _,
    writeBack_completes (P := fun v => v.toNat = ∑ k ∈ Finset.range 64, ((s.reg rb).getLsbD k).toNat)
      ((unsignedImm_toNat (countPopulation_le (s.reg rb))).trans (countPopulation_eq_sum (s.reg rb)))⟩

/-- Settles O52: a legal width is at most 64, so that the extension loses no bit. -/
theorem logicSext : Obligations.LogicSext := by
  intro rc rb s hwf
  obtain ⟨-, hle⟩ := Params.wf_iff.mp hwf
  exact ⟨packRRI3_selector_toNat rc rb _ _,
    writeBack_completes (P := fun v => v.toInt = ((s.reg rb).toNat : Int).bmod (2 ^ s.params.sextSrcBits))
      (signExtendFrom_toInt hle (s.reg rb))⟩

/-- Settles O47: the copy, each bit inverted, and zero less the operand. -/
theorem logicMovNotNeg : Obligations.LogicMovNotNeg := by
  intro rc rb s
  refine ⟨⟨packRRI3_selector_toNat rc rb _ _, ?_⟩, ⟨packRRI3_selector_toNat rc rb _ _, ?_⟩,
    packRRI3_selector_toNat rc rb _ _, ?_⟩
  · exact writeBack_writes s rc (s.reg rb)
  · exact writeBack_completes (P := fun v => ∀ k : Nat, k < 64 → v.getLsbD k = !(s.reg rb).getLsbD k)
      fun k hk => by rw [BitVec.getLsbD_not, decide_eq_true hk, Bool.true_and]
  · exact writeBack_completes (P := fun v => (v.toNat : Int) = (0 - (s.reg rb).toNat) % 2 ^ 64)
      (toNat_sub_eq_emod 0 (s.reg rb))

end Sys2Proof.Machine
end

section
/-! PROOF. The three-register instructions (spec/45_three_operand.md R200 to R213). All but `div` write back one value
of the operands, and what is left to say of each is that value as an integer or by its bits; `div` does so too where
its quotient exists and fits, and traps or does what DIV_OVERFLOW_RESULT says otherwise. -/

namespace Sys2Proof.Machine

/-! ### The packed distances -/

/-- The low 32 bits of a difference are the difference modulo 2^32, its left operand known modulo 2^64
(spec/45_three_operand.md R200). -/
theorem toNat_setWidth32_sub {x : Word} {z : Int} (hx : (x.toNat : Int) = z % 2 ^ 64) (y : Word) :
    (((x - y).setWidth 32).toNat : Int) = (z - y.toNat) % 2 ^ 32 := by
  have hsub := toNat_sub_eq_emod x y
  rw [BitVec.toNat_setWidth]
  omega

/-- A word lies below 2^64. -/
theorem toNat_eq_emod (x : Word) : (x.toNat : Int) = x.toNat % 2 ^ 64 := by
  have hx := x.isLt
  omega

/-! ### The shift distance (spec/45_three_operand.md R211) -/

theorem shiftDistance_mask6 (x : Word) : shiftDistance .mask6 x = x.toNat % 64 :=
  BitVec.extractLsb'_toNat 0 6 x

theorem shiftDistance_saturate (x : Word) : shiftDistance .saturate x = min x.toNat 64 := rfl

/-- A distance below 64 is the same under either rule; from 64 on it is the rule's. -/
theorem eq_shiftDistance {rule : ShiftAmountRule} {x : Word} {d : Nat} (hlow : x.toNat < 64 → d = x.toNat)
    (hmask : 64 ≤ x.toNat → rule = .mask6 → d = x.toNat % 64)
    (hsaturate : 64 ≤ x.toNat → rule = .saturate → d = 64) : d = shiftDistance rule x := by
  obtain hx | hx := lt_or_ge x.toNat 64
  · cases rule with
    | mask6 => rw [hlow hx, shiftDistance_mask6, Nat.mod_eq_of_lt hx]
    | saturate => rw [hlow hx, shiftDistance_saturate, min_eq_left hx.le]
  · cases rule with
    | mask6 => rw [hmask hx rfl, shiftDistance_mask6]
    | saturate => rw [hsaturate hx rfl, shiftDistance_saturate, min_eq_right hx]

/-! ### The division -/

theorem divOverflows_iff {x y : Word} : divOverflows x y = true ↔ x.toInt = -(2 ^ 63) ∧ y.toInt = -1 := by
  rw [divOverflows, Bool.and_eq_true, beq_iff_eq, beq_iff_eq, ← BitVec.toInt_inj, ← BitVec.toInt_inj]
  rfl

theorem divideSigned_eq_sdiv (x y : Word) : divideSigned x y = x.sdiv y := by
  rw [← BitVec.toInt_inj, divideSigned, BitVec.toInt_ofInt, BitVec.toInt_sdiv]

/-- But for -2^63 by -1 the quotient fits in 64 bits (spec/45_three_operand.md R213). -/
theorem divideSigned_toInt {x y : Word} (h : ¬ (x.toInt = -(2 ^ 63) ∧ y.toInt = -1)) :
    (divideSigned x y).toInt = Int.tdiv x.toInt y.toInt := by
  rw [divideSigned_eq_sdiv]
  refine BitVec.toInt_sdiv_of_ne_or_ne x y (not_and_or.mp fun ⟨hx, hy⟩ => h ?_)
  subst hx hy
  exact ⟨rfl, rfl⟩

theorem ne_zero_of_toInt_eq_neg_one {y : Word} (h : y.toInt = -1) : y ≠ 0 := by
  rintro rfl
  exact absurd h (by decide)

section Div

variable {s : State} {rb ra : Reg} (rc : Reg)

theorem exec_div_of_zero (hzero : s.reg ra = 0) :
    exec (.div rc rb ra) s = .next (takeTrap .divideByZero s) := by
  rw [exec, execDiv, if_pos hzero]

theorem exec_div_of_fits (hne : s.reg ra ≠ 0) (hfits : ¬ ((s.reg rb).toInt = -(2 ^ 63) ∧ (s.reg ra).toInt = -1)) :
    exec (.div rc rb ra) s = writeBack rc (divideSigned (s.reg rb) (s.reg ra)) s := by
  rw [exec, execDiv, if_neg hne, if_neg (mt divOverflows_iff.mp hfits)]

section Overflow

variable (hx : (s.reg rb).toInt = -(2 ^ 63)) (hy : (s.reg ra).toInt = -1)

include hx hy

theorem exec_div_of_overflow_value {v : Word} (hresult : Config.divOverflowResult = .value v) :
    exec (.div rc rb ra) s = writeBack rc v s := by
  rw [exec, execDiv, if_neg (ne_zero_of_toInt_eq_neg_one hy), if_pos (divOverflows_iff.mpr ⟨hx, hy⟩), hresult]

theorem exec_div_of_overflow_trap {cause : Nat} (hresult : Config.divOverflowResult = .trap cause) :
    exec (.div rc rb ra) s = .next (takeTrap (.divOverflow cause) s) := by
  rw [exec, execDiv, if_neg (ne_zero_of_toInt_eq_neg_one hy), if_pos (divOverflows_iff.mpr ⟨hx, hy⟩), hresult]

end Overflow

end Div

/-! ### The obligations -/

/-- Settles O53: the halves of the value written are the two elements of the link vector, each a distance cut to 32
bits. -/
theorem pinPacksDistances : Obligations.PinPacksDistances := by
  intro rc rb ra s
  refine ⟨packRRR_toNat rc rb ra _, ?_⟩
  obtain ⟨t, hexec, hreg, hpc, hframe⟩ :=
    writeBack_writes s rc (linkVector ((s.pc + 2 - s.reg ra).setWidth 32) ((s.ib - s.reg rb).setWidth 32))
  refine ⟨t, hexec, ?_, ?_, hpc, hframe⟩
  · rw [← vecPc_toNat, hreg, vecPc_linkVector]
    exact toNat_setWidth32_sub (toNat_add_signedImm s.pc 2) (s.reg ra)
  · rw [← vecIb_toNat, hreg, vecIb_linkVector]
    exact toNat_setWidth32_sub (toNat_eq_emod s.ib) (s.reg rb)

/-- Settles O55: word addition, subtraction and multiplication wrap at 2^64, the product in either reading. -/
theorem addSubMul : Obligations.AddSubMul := by
  intro rc rb ra s
  refine ⟨⟨packRRR_toNat rc rb ra _, ?_⟩, ⟨packRRR_toNat rc rb ra _, ?_⟩, packRRR_toNat rc rb ra _, ?_⟩
  · exact writeBack_completes (P := fun v => v.toNat = ((s.reg rb).toNat + (s.reg ra).toNat) % 2 ^ 64)
      (BitVec.toNat_add (s.reg rb) (s.reg ra))
  · exact writeBack_completes (P := fun v => (v.toNat : Int) = ((s.reg rb).toNat - (s.reg ra).toNat) % 2 ^ 64)
      (toNat_sub_eq_emod (s.reg rb) (s.reg ra))
  · obtain ⟨t, hexec, hreg, hpc, hframe⟩ := writeBack_writes s rc (multiply (s.reg rb) (s.reg ra))
    refine ⟨t, hexec, ?_, ?_, hpc, hframe⟩
    · rw [hreg, multiply, BitVec.toNat_mul]
    · rw [hreg, multiply, BitVec.toInt_mul]

/-- Settles O56: the distance is the one the rule of the state gives, and each shift is a quotient or a product with
its power of two. -/
theorem registerShifts : Obligations.RegisterShifts := by
  intro rc rb ra s d hlow hmask hsaturate
  obtain rfl := eq_shiftDistance hlow hmask hsaturate
  refine ⟨⟨packRRR_toNat rc rb ra _, ?_⟩, ⟨packRRR_toNat rc rb ra _, ?_⟩, packRRR_toNat rc rb ra _, ?_⟩
  · exact writeBack_completes (P := fun v => v.toNat = (s.reg rb).toNat / 2 ^ _) (shiftRightLogical_toNat (s.reg rb) _)
  · exact writeBack_completes (P := fun v => v.toInt = (s.reg rb).toInt / 2 ^ _) (shiftRightArith_toInt (s.reg rb) _)
  · exact writeBack_completes (P := fun v => v.toNat = (s.reg rb).toNat * 2 ^ _ % 2 ^ 64)
      (shiftLeft_toNat (s.reg rb) _)

/-- Settles O57, by the divisor zero, the quotient that fits, and the overflow, which is what DIV_OVERFLOW_RESULT is. -/
theorem divisionByCases : Obligations.DivisionByCases := by
  intro rc rb ra s
  refine ⟨packRRR_toNat rc rb ra _, fun hne hfits => ?_, fun hzero => ?_, fun hx hy => ?_⟩
  · rw [exec_div_of_fits rc hne hfits]
    exact writeBack_completes (P := fun v => v.toInt = Int.tdiv (s.reg rb).toInt (s.reg ra).toInt)
      (divideSigned_toInt hfits)
  · exact ⟨_, exec_div_of_zero rc hzero, takeTrap_trapped _ s⟩
  · cases hresult : Config.divOverflowResult with
    | value v =>
      obtain ⟨t, hexec, hwritten⟩ := writeBack_writes s rc v
      exact ⟨t, (exec_div_of_overflow_value rc hx hy hresult).trans hexec, .inl ⟨v, rfl, hwritten⟩⟩
    | trap cause =>
      exact ⟨_, exec_div_of_overflow_trap rc hx hy hresult, .inr ⟨cause, rfl, takeTrap_trapped _ s⟩⟩

/-- Settles O54: the word operations act bit by bit. -/
theorem bitwiseOperations : Obligations.BitwiseOperations := by
  intro rc rb ra s
  refine ⟨⟨packRRR_toNat rc rb ra _, ?_⟩, ⟨packRRR_toNat rc rb ra _, ?_⟩, packRRR_toNat rc rb ra _, ?_⟩
  · exact writeBack_completes
      (P := fun v => ∀ k : Nat, k < 64 → v.getLsbD k = ((s.reg rb).getLsbD k && (s.reg ra).getLsbD k))
      fun _ _ => BitVec.getLsbD_and
  · exact writeBack_completes
      (P := fun v => ∀ k : Nat, k < 64 → v.getLsbD k = ((s.reg rb).getLsbD k || (s.reg ra).getLsbD k))
      fun _ _ => BitVec.getLsbD_or
  · exact writeBack_completes
      (P := fun v => ∀ k : Nat, k < 64 → v.getLsbD k = ((s.reg rb).getLsbD k ^^ (s.reg ra).getLsbD k))
      fun _ _ => BitVec.getLsbD_xor

end Sys2Proof.Machine
end

section
/-! PROOF. The system instructions (spec/46_system.md R230, R231): the packet of each is its unsigned field over its
opcode, and each takes the trap entry of spec/60_exceptions.md R244, the field kept in the event. -/

namespace Sys2Proof.Machine

/-! ### The packet -/

/-- The 9-bit field of an unsigned immediate that fits holds it as it is (spec/30_encoding.md R88). -/
theorem packI9_ofNat_toNat {u : Nat} (op : BitVec 5) (hu : fitsUnsigned 9 u = true) :
    (packI9 (BitVec.ofNat 9 u) op).toNat = u * 128 + op.toNat * 4 := by
  rw [packI9_toNat, toNat_ofNat_of_fits hu]

/-! ### The trap taken -/

theorem exec_brk (u : Nat) (s : State) : exec (.brk u) s = .next (takeTrap (.breakpoint u) s) := rfl

theorem exec_illegal (u : Nat) (s : State) : exec (.illegal u) s = .next (takeTrap (.illegalInstruction u) s) := rfl

/-! ### The obligation -/

/-- Settles O58: both go to the trap entry without a condition, each with its own event. -/
theorem breakAndIllegalTrap : Obligations.BreakAndIllegalTrap := by
  intro u s hu
  refine ⟨⟨packI9_ofNat_toNat _ hu, ?_⟩, packI9_ofNat_toNat _ hu, ?_⟩
  · exact ⟨_, exec_brk u s, takeTrap_trapped _ s⟩
  · exact ⟨_, exec_illegal u s, takeTrap_trapped _ s⟩

end Sys2Proof.Machine
end

section
/-! PROOF. Traps and the end of a run (spec/60_exceptions.md): the cause values (R241), a trap entry after other trap
entries (R249), and the run that stops at its first trap (R252). -/

namespace Sys2Proof.Machine

/-! ### The run to the first trap -/

/-- A state that has trapped is where its run ends, whatever the fuel. -/
theorem runToTrap_of_ended {s : State} (h : s.ended = true) (n : Nat) : runToTrap n s = .next s := by
  cases n with
  | zero => rfl
  | succ n => rw [runToTrap, if_pos h]

theorem runToTrap_succ_of_not_ended {s : State} (h : s.ended ≠ true) (n : Nat) :
    runToTrap (n + 1) s = andThen (step s) (runToTrap n) := by
  rw [runToTrap, if_neg h]

/-! ### Trap entry after other trap entries -/

/-- Trap entry reads none of `tpc`, `tcause` and the last trap, and writes all three (spec/60_exceptions.md R244). -/
theorem takeTrap_overwrites (e : Trap) (s : State) (p : Word) (c : Nat) (l : Option Trap) :
    takeTrap e { s with tpc := p, tcause := c, lastTrap := l } = takeTrap e s := rfl

/-- An instruction that enters the trap from both states traps alike, where the two trap entries are one state. -/
theorem trapsAlike_of_takeTrap_eq {i : Instr} {e : Trap} {s o : State} (hentry : takeTrap e o = takeTrap e s)
    (hs : exec i s = .next (takeTrap e s)) (ho : exec i o = .next (takeTrap e o)) : TrapsAlike i e s o :=
  ⟨takeTrap e s, hs, hentry ▸ ho, takeTrap_trapped e s, hentry ▸ takeTrap_trapped e o⟩

/-! ### The obligations -/

/-- Settles O15, by induction on the fuel that reaches the trap: the greater fuel takes the same steps up to it. -/
theorem runEndsAtFirstTrap : Obligations.RunEndsAtFirstTrap := by
  intro n
  induction n with
  | zero =>
    rintro m s _ ⟨⟩ ht -
    exact runToTrap_of_ended ht m
  | succ n ih =>
    intro m s t hrun ht hnm
    obtain ⟨k, rfl⟩ : ∃ k, m = k + 1 := Nat.exists_eq_add_of_le' (by omega)
    by_cases hs : s.ended = true
    · rw [runToTrap_of_ended hs] at hrun ⊢
      exact hrun
    · rw [runToTrap_succ_of_not_ended hs, andThen_eq_next] at hrun ⊢
      obtain ⟨u, hstep, hrest⟩ := hrun
      exact ⟨u, hstep, ih k u t hrest ht (by omega)⟩

/-- Settles O59: the three causes are the values of a one-to-one numbering at 0, 1 and 2. -/
theorem causesDistinct : Obligations.CausesDistinct := by
  have hne {a b : Nat} (h : a ≠ b) : Config.causeNumbering a ≠ Config.causeNumbering b :=
    Config.causeNumbering.injective.ne h
  exact ⟨fun _ => rfl, fun _ => rfl, rfl, hne (by decide), hne (by decide), hne (by decide)⟩

/-- Settles O60: each trapping instruction answers the trap entry, which the trap registers do not reach. -/
theorem secondTrapOverwrites : Obligations.SecondTrapOverwrites := by
  intro s o p c l ho
  have hreg (r : Reg) : o.reg r = s.reg r := ho ▸ rfl
  have hentry (e : Trap) : takeTrap e o = takeTrap e s := ho ▸ takeTrap_overwrites e s p c l
  refine ⟨fun u => ?_, fun u => ?_, fun rc rb ra hzero => ?_, fun rc rb ra hx hy => ?_⟩
  · exact trapsAlike_of_takeTrap_eq (hentry _) (exec_brk u s) (exec_brk u o)
  · exact trapsAlike_of_takeTrap_eq (hentry _) (exec_illegal u s) (exec_illegal u o)
  · exact trapsAlike_of_takeTrap_eq (hentry _) (exec_div_of_zero rc hzero)
      (exec_div_of_zero rc ((hreg ra).trans hzero))
  · cases hresult : Config.divOverflowResult with
    | value v => exact .inl ⟨v, rfl⟩
    | trap cause =>
      have hox : (o.reg rb).toInt = -(2 ^ 63) := by rw [hreg, hx]
      have hoy : (o.reg ra).toInt = -1 := by rw [hreg, hy]
      exact .inr ⟨cause, rfl, trapsAlike_of_takeTrap_eq (hentry _) (exec_div_of_overflow_trap rc hx hy hresult)
        (exec_div_of_overflow_trap rc hox hoy hresult)⟩

end Sys2Proof.Machine
end
